-- ==== Sys2Proof/Word.lean ====
section
/-! DEFINITION. The words of the block: the unsigned types u8, u16 and u32 of R10. -/

namespace Sys2Proof

/-- A u8 (R10): a bus byte, a frame byte, a ring entry. -/
abbrev Byte := BitVec 8

/-- A u16 (R10): the operand `m` of format F6. -/
abbrev U16 := BitVec 16

/-- A u32 (R10): a host time in milliseconds, a counter, the solenoid pattern. -/
abbrev U32 := BitVec 32

end Sys2Proof
end

