-- ==== Sys2Proof/Syntax.lean ====
section
/-! DEFINITION. The commands of the block (R305), their frames and formats (R300, R301), and the source forms of
R308 to R310. -/

namespace Sys2Proof

/-- A host command, one constructor for each row of the opcode map (R305). Operands are the frame's own: `a`, `b`, `c`
are u8, `t` and `v` are u32, `m` is u16 (R301). A Boolean operand stays the byte it is in the frame (R302). -/
inductive Instr where
  | reset
  | selfCheck
  | irqSuspend
  | irqResume
  | update (t : U32)
  | readStatus
  | readUpdown
  | pullEvent
  | readLevel (a : Byte)
  | pushPulsed (a b c : Byte)
  | pushPriority (a b : Byte)
  | pushTimed (a b : Byte) (t : U32) (c : Byte)
  | setContinuous (a b : Byte)
  | solDisable
  | solEnable
  | readContMask
  | setLamp (a b c : Byte) (m : U16)
  | readLampState (a : Byte)
  | readLampDim (a : Byte)
  | readLampFlash (a : Byte)
  | lampsOffAll
  | flashAll (t : U32)
  | setDimDivisors (a b : Byte)
  | setDigits (a : Byte) (v : U32) (b c : Byte)
  | setBlankMask (a b : Byte)
  | setCredits (a b c : Byte)
  | setBip (a b c : Byte)
  | pushSound (a : Byte)
  | pushTimedSound (a : Byte) (t : U32)
  | setSoundRange (a b : Byte)
deriving DecidableEq, Repr

/-- The names of the opcode map's rows (R305). -/
inductive Mnemonic where
  | reset | selfCheck | irqSuspend | irqResume | update | readStatus | readUpdown
  | pullEvent | readLevel
  | pushPulsed | pushPriority | pushTimed | setContinuous | solDisable | solEnable | readContMask
  | setLamp | readLampState | readLampDim | readLampFlash | lampsOffAll | flashAll | setDimDivisors
  | setDigits | setBlankMask | setCredits | setBip
  | pushSound | pushTimedSound | setSoundRange
deriving DecidableEq, Repr

/-- Every row of the opcode map, in its order. -/
def Mnemonic.all : List Mnemonic :=
  [.reset, .selfCheck, .irqSuspend, .irqResume, .update, .readStatus, .readUpdown, .pullEvent, .readLevel,
   .pushPulsed, .pushPriority, .pushTimed, .setContinuous, .solDisable, .solEnable, .readContMask,
   .setLamp, .readLampState, .readLampDim, .readLampFlash, .lampsOffAll, .flashAll, .setDimDivisors,
   .setDigits, .setBlankMask, .setCredits, .setBip, .pushSound, .pushTimedSound, .setSoundRange]

/-- The row an instruction belongs to. -/
def Instr.mnemonic : Instr → Mnemonic
  | .reset => .reset
  | .selfCheck => .selfCheck
  | .irqSuspend => .irqSuspend
  | .irqResume => .irqResume
  | .update _ => .update
  | .readStatus => .readStatus
  | .readUpdown => .readUpdown
  | .pullEvent => .pullEvent
  | .readLevel _ => .readLevel
  | .pushPulsed _ _ _ => .pushPulsed
  | .pushPriority _ _ => .pushPriority
  | .pushTimed _ _ _ _ => .pushTimed
  | .setContinuous _ _ => .setContinuous
  | .solDisable => .solDisable
  | .solEnable => .solEnable
  | .readContMask => .readContMask
  | .setLamp _ _ _ _ => .setLamp
  | .readLampState _ => .readLampState
  | .readLampDim _ => .readLampDim
  | .readLampFlash _ => .readLampFlash
  | .lampsOffAll => .lampsOffAll
  | .flashAll _ => .flashAll
  | .setDimDivisors _ _ => .setDimDivisors
  | .setDigits _ _ _ _ => .setDigits
  | .setBlankMask _ _ => .setBlankMask
  | .setCredits _ _ _ => .setCredits
  | .setBip _ _ _ => .setBip
  | .pushSound _ => .pushSound
  | .pushTimedSound _ _ => .pushTimedSound
  | .setSoundRange _ _ => .setSoundRange

/-- The frame formats of R301. -/
inductive Format where
  | f0 | f1 | f2 | f3 | f4 | f5 | f6 | f7 | f8
deriving DecidableEq, Repr

/-- The operands of a frame under the names R301 gives them. `t` also stands for the `v` of format F7; an operand the
format lacks is 0. -/
structure Operands where
  a : Byte := 0#8
  b : Byte := 0#8
  c : Byte := 0#8
  m : U16 := 0#16
  t : U32 := 0#32
deriving DecidableEq, Repr

/-- A frame (R300): the opcode `f[0]` and the operand bytes `f[1..n−1]`. A frame of length 0 cannot be delivered (R303),
and cannot be written here. -/
structure Frame where
  op : Byte
  rest : List Byte
deriving DecidableEq, Repr

/-- The frame length `n` (R300). -/
def Frame.length (f : Frame) : Nat := f.rest.length + 1

/-- The byte string `f[0..n−1]` of a frame. -/
def Frame.bytes (f : Frame) : List Byte := f.op :: f.rest

/-- The command errors of R801 that a command can raise and the block records. -/
inductive CommandError where
  /-- Code 1: `f[0]` is no opcode of R305. -/
  | illegalOpcode
  /-- Code 2: the frame length is not the length of the opcode's format. -/
  | badLength
  /-- Code 3: SELF_CHECK while the interrupt source is not suspended (R701). -/
  | selfCheckRefused
deriving DecidableEq, Repr

/-- The names of operands in a frame (R301), `t` standing for `t` and `v`. -/
inductive OperandName where
  | a | b | c | m | t
deriving DecidableEq, Repr

/-- How an operand is written in source text (R308): a number of a width, or a Boolean 0 or 1. -/
inductive OperandKind where
  | u8 | u16 | u32 | bool
deriving DecidableEq, Repr

/-- A source command (R308): a mnemonic and its operands as numbers, in the order of R305's "operands" column. -/
structure SourceLine where
  mnemonic : Mnemonic
  operands : List Nat
deriving DecidableEq, Repr

/-- The pseudo-commands of R309, but for CRITICAL, which brackets other items (`critical` in Machine/Assembler.lean). -/
inductive Pseudo where
  | solPulse (id ticks : Byte)
  | solPulseOvr (id ticks : Byte)
  | solTimed (id ticks : Byte) (t : U32)
  | contOn (id : Byte)
  | contOff (id : Byte)
  | lampOn (id : Byte)
  | lampOff (id : Byte)
  | lampDim (id lvl : Byte)
  | lampFlash (id : Byte) (ms : U16)
  | blankDisplay (d : Byte)
  | sound (v : Byte)
deriving DecidableEq, Repr

/-- An item of a program in the notation of R309 and R310. -/
inductive Item where
  /-- A command. -/
  | cmd (i : Instr)
  /-- A pseudo-command, which stands for its expansion (R309). -/
  | pseudo (p : Pseudo)
  /-- `FIRE ×k`: k timer firing events in a row (R310). -/
  | fire (k : Nat)
  /-- The pending step (R653). -/
  | pendingStep
deriving DecidableEq, Repr

end Sys2Proof
end

