-- ==== Sys2Proof/Decode.lean ====
section
/-! DEFINITION. From frames to commands and back: the opcode map (R305), the formats (R301), operand assembly (R302), the
decoder (R303) and its encoder, and the response lengths (R304). -/

namespace Sys2Proof

/-- The opcode byte of each row (R305). -/
def Mnemonic.opcode : Mnemonic → Byte
  | .reset => 0x00#8
  | .selfCheck => 0x01#8
  | .irqSuspend => 0x02#8
  | .irqResume => 0x03#8
  | .update => 0x04#8
  | .readStatus => 0x05#8
  | .readUpdown => 0x06#8
  | .pullEvent => 0x10#8
  | .readLevel => 0x11#8
  | .pushPulsed => 0x20#8
  | .pushPriority => 0x21#8
  | .pushTimed => 0x22#8
  | .setContinuous => 0x23#8
  | .solDisable => 0x24#8
  | .solEnable => 0x25#8
  | .readContMask => 0x26#8
  | .setLamp => 0x30#8
  | .readLampState => 0x31#8
  | .readLampDim => 0x32#8
  | .readLampFlash => 0x33#8
  | .lampsOffAll => 0x34#8
  | .flashAll => 0x35#8
  | .setDimDivisors => 0x36#8
  | .setDigits => 0x40#8
  | .setBlankMask => 0x41#8
  | .setCredits => 0x42#8
  | .setBip => 0x43#8
  | .pushSound => 0x50#8
  | .pushTimedSound => 0x51#8
  | .setSoundRange => 0x52#8

/-- The format of each row (R305). -/
def Mnemonic.format : Mnemonic → Format
  | .reset => .f0
  | .selfCheck => .f0
  | .irqSuspend => .f0
  | .irqResume => .f0
  | .update => .f4
  | .readStatus => .f0
  | .readUpdown => .f0
  | .pullEvent => .f0
  | .readLevel => .f1
  | .pushPulsed => .f3
  | .pushPriority => .f2
  | .pushTimed => .f5
  | .setContinuous => .f2
  | .solDisable => .f0
  | .solEnable => .f0
  | .readContMask => .f0
  | .setLamp => .f6
  | .readLampState => .f1
  | .readLampDim => .f1
  | .readLampFlash => .f1
  | .lampsOffAll => .f0
  | .flashAll => .f4
  | .setDimDivisors => .f2
  | .setDigits => .f7
  | .setBlankMask => .f2
  | .setCredits => .f3
  | .setBip => .f3
  | .pushSound => .f1
  | .pushTimedSound => .f8
  | .setSoundRange => .f2

/-- How many response bytes a row's command returns when it completes (R304, R305). -/
def Mnemonic.responseLength : Mnemonic → Nat
  | .reset => 0
  | .selfCheck => 1
  | .irqSuspend => 0
  | .irqResume => 0
  | .update => 0
  | .readStatus => 1
  | .readUpdown => 1
  | .pullEvent => 1
  | .readLevel => 1
  | .pushPulsed => 0
  | .pushPriority => 0
  | .pushTimed => 1
  | .setContinuous => 0
  | .solDisable => 0
  | .solEnable => 0
  | .readContMask => 4
  | .setLamp => 0
  | .readLampState => 1
  | .readLampDim => 1
  | .readLampFlash => 1
  | .lampsOffAll => 0
  | .flashAll => 0
  | .setDimDivisors => 0
  | .setDigits => 0
  | .setBlankMask => 0
  | .setCredits => 0
  | .setBip => 0
  | .pushSound => 1
  | .pushTimedSound => 1
  | .setSoundRange => 0

/-- The row whose opcode is `op`, if there is one; every other opcode is illegal (R306). -/
def Mnemonic.ofOpcode (op : Byte) : Option Mnemonic :=
  Mnemonic.all.find? fun k => k.opcode == op

/-- The frame length `n` of a format (R301). -/
def Format.length : Format → Nat
  | .f0 => 1
  | .f1 => 2
  | .f2 => 3
  | .f3 => 4
  | .f4 => 5
  | .f5 => 8
  | .f6 => 6
  | .f7 => 8
  | .f8 => 6

/-- A little-endian u16 from its bytes, the low one first (R302). -/
def le16 (b0 b1 : Byte) : U16 := b1 ++ b0

/-- A little-endian u32 from its bytes, the low one first (R302). -/
def le32 (b0 b1 b2 b3 : Byte) : U32 := b3 ++ b2 ++ b1 ++ b0

/-- The bytes of a u16, low byte first (R302). -/
def bytes16 (v : U16) : List Byte := [v.extractLsb' 0 8, v.extractLsb' 8 8]

/-- The bytes of a u32, low byte first (R302, R304). -/
def bytes32 (v : U32) : List Byte :=
  [v.extractLsb' 0 8, v.extractLsb' 8 8, v.extractLsb' 16 8, v.extractLsb' 24 8]

/-- The operands of a frame of a given format, from the bytes after the opcode (R301); none where the length is not the
format's. -/
def Format.parse : Format → List Byte → Option Operands
  | .f0, rest =>
    match rest with
    | [] => some {}
    | _ => none
  | .f1, rest =>
    match rest with
    | [a] => some { a := a }
    | _ => none
  | .f2, rest =>
    match rest with
    | [a, b] => some { a := a, b := b }
    | _ => none
  | .f3, rest =>
    match rest with
    | [a, b, c] => some { a := a, b := b, c := c }
    | _ => none
  | .f4, rest =>
    match rest with
    | [t0, t1, t2, t3] => some { t := le32 t0 t1 t2 t3 }
    | _ => none
  | .f5, rest =>
    match rest with
    | [a, b, t0, t1, t2, t3, c] => some { a := a, b := b, c := c, t := le32 t0 t1 t2 t3 }
    | _ => none
  | .f6, rest =>
    match rest with
    | [a, b, c, m0, m1] => some { a := a, b := b, c := c, m := le16 m0 m1 }
    | _ => none
  | .f7, rest =>
    match rest with
    | [a, v0, v1, v2, v3, b, c] => some { a := a, b := b, c := c, t := le32 v0 v1 v2 v3 }
    | _ => none
  | .f8, rest =>
    match rest with
    | [a, t0, t1, t2, t3] => some { a := a, t := le32 t0 t1 t2 t3 }
    | _ => none

/-- The bytes after the opcode of a frame of a given format (R301). -/
def Format.emit : Format → Operands → List Byte
  | .f0, _ => []
  | .f1, o => [o.a]
  | .f2, o => [o.a, o.b]
  | .f3, o => [o.a, o.b, o.c]
  | .f4, o => bytes32 o.t
  | .f5, o => [o.a, o.b] ++ bytes32 o.t ++ [o.c]
  | .f6, o => [o.a, o.b, o.c] ++ bytes16 o.m
  | .f7, o => [o.a] ++ bytes32 o.t ++ [o.b, o.c]
  | .f8, o => [o.a] ++ bytes32 o.t

/-- The command of a row with the given operands (R305). -/
def Mnemonic.build : Mnemonic → Operands → Instr
  | .reset, _ => .reset
  | .selfCheck, _ => .selfCheck
  | .irqSuspend, _ => .irqSuspend
  | .irqResume, _ => .irqResume
  | .update, o => .update o.t
  | .readStatus, _ => .readStatus
  | .readUpdown, _ => .readUpdown
  | .pullEvent, _ => .pullEvent
  | .readLevel, o => .readLevel o.a
  | .pushPulsed, o => .pushPulsed o.a o.b o.c
  | .pushPriority, o => .pushPriority o.a o.b
  | .pushTimed, o => .pushTimed o.a o.b o.t o.c
  | .setContinuous, o => .setContinuous o.a o.b
  | .solDisable, _ => .solDisable
  | .solEnable, _ => .solEnable
  | .readContMask, _ => .readContMask
  | .setLamp, o => .setLamp o.a o.b o.c o.m
  | .readLampState, o => .readLampState o.a
  | .readLampDim, o => .readLampDim o.a
  | .readLampFlash, o => .readLampFlash o.a
  | .lampsOffAll, _ => .lampsOffAll
  | .flashAll, o => .flashAll o.t
  | .setDimDivisors, o => .setDimDivisors o.a o.b
  | .setDigits, o => .setDigits o.a o.t o.b o.c
  | .setBlankMask, o => .setBlankMask o.a o.b
  | .setCredits, o => .setCredits o.a o.b o.c
  | .setBip, o => .setBip o.a o.b o.c
  | .pushSound, o => .pushSound o.a
  | .pushTimedSound, o => .pushTimedSound o.a o.t
  | .setSoundRange, o => .setSoundRange o.a o.b

/-- The decoder (R303): the opcode is checked first, then the length; a frame that passes both is a command. -/
def decode (f : Frame) : Except CommandError Instr :=
  match Mnemonic.ofOpcode f.op with
  | none => .error .illegalOpcode
  | some k =>
    match k.format.parse f.rest with
    | none => .error .badLength
    | some o => .ok (k.build o)

/-- The operands of a command under the names of R301. -/
def Instr.operands : Instr → Operands
  | .reset => {}
  | .selfCheck => {}
  | .irqSuspend => {}
  | .irqResume => {}
  | .update t => { t := t }
  | .readStatus => {}
  | .readUpdown => {}
  | .pullEvent => {}
  | .readLevel a => { a := a }
  | .pushPulsed a b c => { a := a, b := b, c := c }
  | .pushPriority a b => { a := a, b := b }
  | .pushTimed a b t c => { a := a, b := b, c := c, t := t }
  | .setContinuous a b => { a := a, b := b }
  | .solDisable => {}
  | .solEnable => {}
  | .readContMask => {}
  | .setLamp a b c m => { a := a, b := b, c := c, m := m }
  | .readLampState a => { a := a }
  | .readLampDim a => { a := a }
  | .readLampFlash a => { a := a }
  | .lampsOffAll => {}
  | .flashAll t => { t := t }
  | .setDimDivisors a b => { a := a, b := b }
  | .setDigits a v b c => { a := a, b := b, c := c, t := v }
  | .setBlankMask a b => { a := a, b := b }
  | .setCredits a b c => { a := a, b := b, c := c }
  | .setBip a b c => { a := a, b := b, c := c }
  | .pushSound a => { a := a }
  | .pushTimedSound a t => { a := a, t := t }
  | .setSoundRange a b => { a := a, b := b }

/-- The frame of a command (R300, R301, R305). -/
def encode (i : Instr) : Frame :=
  { op := i.mnemonic.opcode, rest := i.mnemonic.format.emit i.operands }

/-- The byte of a table word at offset `k`: bits `8k+7 : 8k`, the first byte of the frame lowest. -/
def tableByte (w k : Nat) : Byte := BitVec.ofNat 8 (w >>> (8 * k))

/-- The frame whose first `nbits` bits are those of `w` and whose further bytes are 0. Its length is the format's, which
the opcode alone gives (R303), or as long as the given bits reach where that is longer (log 15). -/
def frameOfTableWord (nbits w : Nat) : Frame :=
  let word := w % 2 ^ nbits
  let op := tableByte word 0
  let formatLength :=
    match Mnemonic.ofOpcode op with
    | some k => k.format.length
    | none => 1
  { op := op,
    rest := (List.range (max formatLength ((nbits + 7) / 8) - 1)).map fun k => tableByte word (k + 1) }

/-- The command the decoder reads from an opcode-table word. -/
def decodeTableWord (nbits w : Nat) : Option Instr :=
  match decode (frameOfTableWord nbits w) with
  | .ok i => some i
  | .error _ => none

end Sys2Proof
end

