-- ==== Sys2Proof/Config.lean ====
section
/-! DEFINITION. The implementation parameters of R8, as plain data that a state carries, their defaults, and the
opaque constants that stand for what the spec leaves open: every parameter marked OPEN, and the bus environment's
draws (R204). -/

namespace Sys2Proof

/-- A bus address parameter (R201, R207), written at its own width: `bits` is how many bits it has. It names a location
of a bus that is at least that wide. -/
structure BusAddr where
  bits : Nat
  value : BitVec bits
deriving DecidableEq, Repr

/-- The location a bus address names (R208: used exactly as given). -/
def BusAddr.toNat (a : BusAddr) : Nat := a.value.toNat

/-- A control line (address, mask, activeLow) of R8, read by `lineActive` (R13). -/
structure Line where
  addr : BusAddr
  mask : Byte
  activeLow : Bool
deriving DecidableEq, Repr

/-- An entry of P_PRIORITY_TABLE (R8). -/
structure PriorityEntry where
  switchNumber : Byte
  solenoidNumber : Byte
  holdTicks : Byte
deriving DecidableEq, Repr

/-- The values of P_DIM_COUNTER (R8, R502). -/
inductive DimCounter where
  | lampCycle
  | scanPass
  | firing
deriving DecidableEq, Repr

/-- The owner of a display strobe slot (R555): a primary display `P0` to `P4`, the credits or the ball-in-play
sub-display. -/
inductive Owner where
  | primary (d : Fin 5)
  | cred
  | bip
deriving DecidableEq, Repr

/-- A slot of P_DISPLAY_SEQUENCE (R555): its owner, the digit position of that owner, and the row-select byte. -/
structure Slot where
  owner : Owner
  k : Nat
  sel : Byte
deriving DecidableEq, Repr

/-- An (address, pattern) pair of P_SELFCHECK (R8, R701). -/
structure SelfCheckEntry where
  addr : BusAddr
  pat : Byte
deriving DecidableEq, Repr

/-- The parameters of R8, each under its own name without the `P_`. P_NUM_DISPLAYS is fixed at 5 and is the length of
the vectors below. P_SETTLE and P_FIRE_PERIOD are timing only, no rule reads them, and they are left out (log 12). -/
structure Config where
  swqCap : Nat
  solqCap : Nat
  tsolCap : Nat
  sndqCap : Nat
  tsndCap : Nat
  udTimeout : Byte
  flashUnitMs : Byte
  flashMin : Byte
  flashMax : Byte
  dim1Reset : Byte
  dim2Reset : Byte
  numSwGroups : Nat
  swSelfTest : Byte
  swActiveLow : Bool
  swStrobeAddr : BusAddr
  swReturnAddr : BusAddr
  /-- P_SW_STROBE_VALUE as a table: entry `g` is the byte that strobes group `g`. -/
  swStrobeValue : List Byte
  selfTestLine : Line
  udLine : Line
  priorityTable : List PriorityEntry
  numSolenoids : Nat
  contAllowed : U32
  solAddr : BusAddr
  numLampBanks : Nat
  lampSelectAddr : BusAddr
  lampDataAddr : BusAddr
  dimCounter : DimCounter
  flashAllPeriod : Byte
  digits : Nat
  displaySequence : List Slot
  dispSelectAddr : BusAddr
  dispDataAddr : BusAddr
  dispBlankCode : Byte
  soundAddr : BusAddr
  soundSilent : Byte
  /-- P_SELFCHECK, one pair per subsystem: 0 switch, 1 lamp, 2 solenoid, 3 display, 4 sound (R701). -/
  selfCheck : Vector SelfCheckEntry 5
  busAddrBits : Nat
deriving DecidableEq, Repr

/-- NSW = 8 × P_NUM_SW_GROUPS (R8). -/
def Config.nsw (c : Config) : Nat := 8 * c.numSwGroups

/-- NLAMP = 8 × P_NUM_LAMP_BANKS (R8). -/
def Config.nlamp (c : Config) : Nat := 8 * c.numLampBanks

/-- NSOLB = ceil(P_NUM_SOLENOIDS / 8) (R8). -/
def Config.nsolb (c : Config) : Nat := (c.numSolenoids + 7) / 8

/-- L, the number of display strobe slots (R8). -/
def Config.numSlots (c : Config) : Nat := c.displaySequence.length

/-- The mask with the `n` low bits set, `(1 << n) − 1`, as a u32: all solenoid ids below `n`. -/
def idMask (n : Nat) : U32 := BitVec.ofNat 32 (2 ^ n - 1)

/-- The default P_SW_STROBE_VALUE(g) = 1 << g (R8) for `n` groups. -/
def defaultStrobe (n : Nat) : List Byte := (List.range n).map fun g => 1#8 <<< g

/-- The default strobe sequence of R555 for a given P_DIGITS. -/
def defaultSequence (digits : Nat) : List Slot :=
  ((List.finRange 5).flatMap fun d =>
    (List.range digits).map fun k =>
      { owner := .primary d, k := k, sel := (BitVec.ofNat 8 d.val <<< 4) ||| BitVec.ofNat 8 k }) ++
  [ { owner := .cred, k := 0, sel := 0x30#8 }, { owner := .cred, k := 1, sel := 0x31#8 },
    { owner := .bip, k := 0, sel := 0x40#8 }, { owner := .bip, k := 1, sel := 0x41#8 } ]

/-! The OPEN parameters of R8: constants without a body, so that no proof can see a value (log 7). An address is a
word of the default P_BUS_ADDR_BITS, 16. -/

opaque Config.openSwActiveLow : Bool
opaque Config.openSwStrobeAddr : BitVec 16
opaque Config.openSwReturnAddr : BitVec 16
opaque Config.openSelfTestAddr : BitVec 16
opaque Config.openSelfTestMask : Byte
opaque Config.openSelfTestActiveLow : Bool
opaque Config.openUdAddr : BitVec 16
opaque Config.openUdMask : Byte
opaque Config.openUdActiveLow : Bool
opaque Config.openSolAddr : BitVec 16
opaque Config.openLampSelectAddr : BitVec 16
opaque Config.openLampDataAddr : BitVec 16
opaque Config.openDispSelectAddr : BitVec 16
opaque Config.openDispDataAddr : BitVec 16
opaque Config.openSoundAddr : BitVec 16
opaque Config.openSoundSilent : Byte
opaque Config.openSelfCheckAddr : Fin 5 → BitVec 16
opaque Config.openSelfCheckPattern : Fin 5 → Byte

/-- The free value of R204: the bus environment's answer to the `n`-th BusRead of a run, under no law (log 5). -/
opaque Config.busDraw : Nat → Byte

/-- A 16-bit bus address. -/
def BusAddr.of16 (v : BitVec 16) : BusAddr := { bits := 16, value := v }

/-- The "default" column of R8; every OPEN parameter is its opaque constant. The blank code 0x0F is marked
[from general knowledge] in the spec itself (G1). -/
def Config.default : Config where
  swqCap := 60
  solqCap := 150
  tsolCap := 30
  sndqCap := 64
  tsndCap := 20
  udTimeout := 50#8
  flashUnitMs := 50#8
  flashMin := 1#8
  flashMax := 250#8
  dim1Reset := 2#8
  dim2Reset := 3#8
  numSwGroups := 5
  swSelfTest := 40#8
  swActiveLow := Config.openSwActiveLow
  swStrobeAddr := .of16 Config.openSwStrobeAddr
  swReturnAddr := .of16 Config.openSwReturnAddr
  swStrobeValue := defaultStrobe 5
  selfTestLine := { addr := .of16 Config.openSelfTestAddr, mask := Config.openSelfTestMask,
                    activeLow := Config.openSelfTestActiveLow }
  udLine := { addr := .of16 Config.openUdAddr, mask := Config.openUdMask, activeLow := Config.openUdActiveLow }
  priorityTable := []
  numSolenoids := 16
  contAllowed := idMask 16
  solAddr := .of16 Config.openSolAddr
  numLampBanks := 8
  lampSelectAddr := .of16 Config.openLampSelectAddr
  lampDataAddr := .of16 Config.openLampDataAddr
  dimCounter := .lampCycle
  flashAllPeriod := 10#8
  digits := 7
  displaySequence := defaultSequence 7
  dispSelectAddr := .of16 Config.openDispSelectAddr
  dispDataAddr := .of16 Config.openDispDataAddr
  dispBlankCode := 0x0F#8
  soundAddr := .of16 Config.openSoundAddr
  soundSilent := Config.openSoundSilent
  selfCheck := Vector.ofFn fun k =>
    { addr := .of16 (Config.openSelfCheckAddr k), pat := Config.openSelfCheckPattern k }
  busAddrBits := 16

end Sys2Proof
end

