-- ==== Sys2Proof/Machine/State.lean ====
section
/-! DEFINITION. The state of the machine (10_state.md): every field of the block's record S, and beside it the model's own
fields for the block's parameters, inputs, bus and outputs (R6 to R8). -/

namespace Sys2Proof.Machine

/-- A ring (R124): `buf` is the array, its length the capacity CAP. -/
structure Ring where
  buf : List Byte
  head : Nat
  tail : Nat
deriving DecidableEq, Repr

/-- A TimedSolenoidEntry (R115). -/
structure TimedSol where
  active : Bool
  fireAt : U32
  sol : Byte
  count : Byte
  ovr : Bool
deriving DecidableEq, Repr

/-- A timed sound entry (R123). -/
structure TimedSnd where
  active : Bool
  fireAt : U32
  val : Byte
deriving DecidableEq, Repr

/-- A primary display (R119): `digits` is `S.digit[d]`, position 0 the least significant, and `mask` is
`S.dispMask[d]`. A digit is BCD, 0..9. -/
structure Display where
  digits : List (Fin 10)
  mask : Byte
deriving DecidableEq, Repr

/-- A 2-digit sub-display (R120): the ones digit, the tens digit, and the enable mask. -/
structure SubDisplay where
  digit0 : Fin 10
  digit1 : Fin 10
  mask : BitVec 2
deriving DecidableEq, Repr

/-- The phase of the next firing (R105): A scans, B actuates. -/
inductive Phase where
  | A
  | B
deriving DecidableEq, Repr

/-- A bus transaction as the trace records it (R12): `R(addr, v)` or `W(addr, v)`. -/
inductive Transaction where
  | read (addr : Nat) (v : Byte)
  | write (addr : Nat) (v : Byte)
deriving DecidableEq, Repr

/-- Bytes by bus address, in one canonical form: addresses strictly rising. An unlisted address holds nothing. -/
abbrev Memory := List Host.Cell

/-- The bus as the block sees it (R200 to R205). `trace` is the block's output 1 (R6), oldest first. `latched` is the byte
the block last wrote to each location, which a device keeps until it is rewritten (R903, I16). `answers` are the draws
the bus environment gives next, and `reads` counts the BusReads issued (R204, log 5). -/
structure Bus where
  trace : List Transaction
  latched : Memory
  answers : List Byte
  reads : Nat
deriving DecidableEq, Repr

/-- An input of the block in the run's total order of steps (R6, R211): a host command frame, a timer firing event, or
the dispatcher's turn to take the pending step (R653). -/
inductive Input where
  | command (f : Frame)
  | timer
  | pending
deriving DecidableEq, Repr

/-- Why the machine stops with a fault. -/
inductive Fault where
  /-- NOT_INITIALISED, code 4 (R801, R806): raised by every frame but RESET's while `init` is false. Safe: the spec itself
  stops the run there, and no claim covers what follows. -/
  | notInitialised
deriving DecidableEq, Repr

/-- Why the machine refuses to go on. -/
inductive Refusal where
  /-- An instruction without a meaning, raised by an arm of `exec` (none is left). Safe: nothing is claimed of it. -/
  | notModelled (mnemonic : String)
  /-- A configuration outside R8's ranges and constraints, raised by `step` (I13: refuse). Safe: the spec refuses it before
  a run. -/
  | illegalConfiguration
deriving DecidableEq, Repr

/-- The state. The fields from `init` to `udEvent` are the block's record S (R100 to R125) under the spec's names, with
`S.digit` and `S.dispMask` in `displays`, `S.credDigit` and `S.credMask` in `cred`, and `S.bipDigit` and `S.bipMask` in
`bip`. The other fields are the model's: the parameters `cfg` (R8), which nothing writes; the `inputs` still to be taken;
the `bus`; and the `responses` given so far, oldest first (R304). -/
structure State where
  cfg : Config
  init : Bool
  irqSuspended : Bool
  firePending : Bool
  errSticky : Bool
  lastErr : BitVec 4
  phase : Phase
  tickCount : U32
  scanCount : U32
  lampCycle : U32
  dimDiv1 : Byte
  dimDiv2 : Byte
  sndLo : Byte
  sndHi : Byte
  solDisabled : Bool
  contMask : U32
  swNow : List Byte
  swM1 : List Byte
  swM2 : List Byte
  selfTestLevel : Bool
  swq : Ring
  solq : Ring
  tsol : List TimedSol
  lampState : List Byte
  lampDim1 : List Byte
  lampDim2 : List Byte
  flashPeriod : List Byte
  lampBank : Nat
  displays : Vector Display 5
  cred : SubDisplay
  bip : SubDisplay
  dispPos : Nat
  sndq : Ring
  tsnd : List TimedSnd
  udTimer : Byte
  udEvent : Bool
  inputs : List Input
  bus : Bus
  responses : List (List Byte)
deriving DecidableEq, Repr

/-- An empty ring of capacity `cap`: head = tail = 0 and every entry 0 (R113, R130). -/
def Ring.emptyOf (cap : Nat) : Ring := { buf := List.replicate cap 0#8, head := 0, tail := 0 }

/-- A sub-display with digits 0 and mask 0 (R120). -/
def SubDisplay.blank : SubDisplay := { digit0 := 0, digit1 := 0, mask := 0#2 }

/-- The reset values of R130 under the parameters `c`. The model's own fields are empty: nothing to come, nothing on the
bus yet, no response given (log 4, log 5, log 10, log 11). -/
def State.resetOf (c : Config) : State where
  cfg := c
  init := true
  irqSuspended := true
  firePending := false
  errSticky := false
  lastErr := 0#4
  phase := .A
  tickCount := 0#32
  scanCount := 0#32
  lampCycle := 0#32
  dimDiv1 := c.dim1Reset
  dimDiv2 := c.dim2Reset
  sndLo := 0#8
  sndHi := 255#8
  solDisabled := false
  contMask := 0#32
  swNow := List.replicate c.numSwGroups 0#8
  swM1 := List.replicate c.numSwGroups 0#8
  swM2 := List.replicate c.numSwGroups 0#8
  selfTestLevel := false
  swq := .emptyOf c.swqCap
  solq := .emptyOf c.solqCap
  tsol := List.replicate c.tsolCap { active := false, fireAt := 0#32, sol := 0#8, count := 0#8, ovr := false }
  lampState := List.replicate c.numLampBanks 0xFF#8
  lampDim1 := List.replicate c.numLampBanks 0#8
  lampDim2 := List.replicate c.numLampBanks 0#8
  flashPeriod := List.replicate c.nlamp 0#8
  lampBank := 0
  displays := Vector.replicate 5 { digits := List.replicate c.digits 0, mask := 0#8 }
  cred := .blank
  bip := .blank
  dispPos := 0
  sndq := .emptyOf c.sndqCap
  tsnd := List.replicate c.tsndCap { active := false, fireAt := 0#32, val := 0#8 }
  udTimer := 0#8
  udEvent := false
  inputs := []
  bus := { trace := [], latched := [], answers := [], reads := 0 }
  responses := []

/-- The machine right after a reset (R130), under the default parameters of R8. -/
def State.reset : State := State.resetOf Config.default

/-- The machine at power-on (R900): `init` is false. No other field of S has a defined value there; those below stand for
no value and no step reads them before RESET writes them (log 6). -/
def State.powerOn : State := { State.reset with init := false }

end Sys2Proof.Machine
end

