-- ==== Sys2Proof/Machine/Flags.lean ====
section
/-! DEFINITION. The STATUS byte (R104) and the error codes it shows (R801). -/

namespace Sys2Proof.Machine

/-- The 4-bit code of a command error (R801). Code 4, NOT_INITIALISED, is the machine's `Fault` and is never recorded;
codes 5 to 15 are never produced. -/
def errorCode : CommandError → BitVec 4
  | .illegalOpcode => 1#4
  | .badLength => 2#4
  | .selfCheckRefused => 3#4

/-- The STATUS byte (R104): LAST_ERR in bits 7:4, ERR in bit 3, SOL_DISABLED in bit 2, FIRE_PENDING in bit 1 and
IRQ_SUSPENDED in bit 0. -/
def statusByte (s : State) : Byte :=
  s.lastErr ++ BitVec.ofBool s.errSticky ++ BitVec.ofBool s.solDisabled ++ BitVec.ofBool s.firePending ++
    BitVec.ofBool s.irqSuspended

end Sys2Proof.Machine
end

