-- ==== Sys2Proof/Machine/Operands.lean ====
section
/-! DEFINITION. What the commands make of their operands: Booleans (R13, R302), ids and their ranges (R450, R500, R412),
bits of bank bytes, `clamp` (R10). -/

namespace Sys2Proof.Machine

/-- `bool(b)` of R13: a Boolean operand is true when its byte is not 0. -/
def operandBool (b : Byte) : Bool := b != 0#8

/-- A Boolean response byte, 1 or 0. -/
def boolByte (b : Bool) : Byte := if b then 1#8 else 0#8

/-- A solenoid id that exists (R450). -/
def solenoidExists (c : Config) (id : Byte) : Bool := id.toNat < c.numSolenoids

/-- A solenoid id that SET_CONTINUOUS accepts (R458): it exists and its bit of P_CONT_ALLOWED is 1. -/
def continuousAllowed (c : Config) (id : Byte) : Bool := solenoidExists c id && c.contAllowed.getLsbD id.toNat

/-- A lamp id that exists (R500). -/
def lampExists (c : Config) (id : Byte) : Bool := id.toNat < c.nlamp

/-- `1 << k` as a u32 (R9). -/
def bit32 (k : Nat) : U32 := 1#32 <<< k

/-- `clamp(v, lo, hi) = min(max(v, lo), hi)` (R10). -/
def clampNat (v lo hi : Nat) : Nat := min (max v lo) hi

/-- Byte `x` with bit `k` made `v`. -/
def setByteBit (x : Byte) (k : Nat) (v : Bool) : Byte :=
  if v then x ||| (1#8 <<< k) else x &&& ~~~(1#8 <<< k)

/-- Bit `n mod 8` of byte `n / 8` of a bank: the bit of switch or lamp `n` (R400, R500). -/
def bankBit (bank : List Byte) (n : Nat) : Bool := (bank.getD (n / 8) 0#8).getLsbD (n % 8)

/-- The bank with the bit of switch or lamp `n` made `v` (R400, R500). -/
def setBankBit (bank : List Byte) (n : Nat) (v : Bool) : List Byte :=
  bank.set (n / 8) (setByteBit (bank.getD (n / 8) 0#8) (n % 8) v)

end Sys2Proof.Machine
end

