-- ==== Sys2Proof/WellFormed.lean ====
section
/-! DEFINITION. The checks made before anything runs: the configuration's legal ranges and constraints (R8), and source
commands (R308). An `Instr` needs none: its operand types are the widths of R301, and the decoder accepts every operand
value (R306). -/

namespace Sys2Proof

/-- The ranges of the five capacities (R8). -/
def Config.capacitiesLegal (c : Config) : Bool :=
  (2 ≤ c.swqCap && c.swqCap ≤ 255) && (2 ≤ c.solqCap && c.solqCap ≤ 65535) && (1 ≤ c.tsolCap && c.tsolCap ≤ 255) &&
  (2 ≤ c.sndqCap && c.sndqCap ≤ 255) && (1 ≤ c.tsndCap && c.tsndCap ≤ 255)

/-- The parameters with range 1..255: the up/down timeout, the flash unit and the dim divisors (R8). -/
def Config.divisorsLegal (c : Config) : Bool :=
  c.udTimeout != 0#8 && c.flashUnitMs != 0#8 && c.dim1Reset != 0#8 && c.dim2Reset != 0#8

/-- 1 ≤ P_FLASH_MIN ≤ P_FLASH_MAX ≤ 255, and P_FLASH_ALL_PERIOD between the two (R8). -/
def Config.flashLegal (c : Config) : Bool :=
  1 ≤ c.flashMin.toNat && c.flashMin.toNat ≤ c.flashMax.toNat &&
  c.flashMin.toNat ≤ c.flashAllPeriod.toNat && c.flashAllPeriod.toNat ≤ c.flashMax.toNat

/-- 1 to 8 switch groups with a strobe byte each, and constraint (a): the self-test number is not 0xFF (R8). -/
def Config.switchesLegal (c : Config) : Bool :=
  1 ≤ c.numSwGroups && c.numSwGroups ≤ 8 && c.swStrobeValue.length == c.numSwGroups && c.swSelfTest != 0xFF#8

/-- At most 255 priority entries, each with a switch number below 0xFF, constraint (a) (R8). Constraint (b) rules
nothing out: an entry whose solenoid does not exist is inert (R457). -/
def Config.priorityTableLegal (c : Config) : Bool :=
  c.priorityTable.length ≤ 255 && c.priorityTable.all fun e => e.switchNumber != 0xFF#8

/-- 1 to 32 solenoids, and P_CONT_ALLOWED a subset of their ids (R8). -/
def Config.solenoidsLegal (c : Config) : Bool :=
  1 ≤ c.numSolenoids && c.numSolenoids ≤ 32 && (c.contAllowed &&& ~~~ idMask c.numSolenoids) == 0#32

/-- 1 to 32 lamp banks (R8). -/
def Config.lampsLegal (c : Config) : Bool :=
  1 ≤ c.numLampBanks && c.numLampBanks ≤ 32

/-- A strobe slot names an owner and a digit that exist (R8 constraint (c), R555). -/
def Config.slotLegal (c : Config) (x : Slot) : Bool :=
  match x.owner with
  | .primary _ => x.k < c.digits
  | .cred => x.k < 2
  | .bip => x.k < 2

/-- 1 to 8 digits, and a strobe sequence of at least one slot, each legal (R8). -/
def Config.displaysLegal (c : Config) : Bool :=
  1 ≤ c.digits && c.digits ≤ 8 && 1 ≤ c.displaySequence.length && c.displaySequence.all c.slotLegal

/-- The bus addresses the block uses: the ten operating addresses and the five of P_SELFCHECK (R207). -/
def Config.addresses (c : Config) : List BusAddr :=
  [c.swStrobeAddr, c.swReturnAddr, c.selfTestLine.addr, c.udLine.addr, c.solAddr, c.lampSelectAddr, c.lampDataAddr,
   c.dispSelectAddr, c.dispDataAddr, c.soundAddr] ++ c.selfCheck.toList.map SelfCheckEntry.addr

/-- 1 to 32 address bits, and every address parameter an address of that bus (R8, R201). -/
def Config.addressesLegal (c : Config) : Bool :=
  1 ≤ c.busAddrBits && c.busAddrBits ≤ 32 && c.addresses.all fun a => a.bits ≤ c.busAddrBits

/-- The check of R8: a configuration that fails it is refused before it runs (93_implementation_defined.md I13). -/
def Config.legal (c : Config) : Bool :=
  c.capacitiesLegal && c.divisorsLegal && c.flashLegal && c.switchesLegal && c.priorityTableLegal &&
  c.solenoidsLegal && c.lampsLegal && c.displaysLegal && c.addressesLegal

/-- A number fits the operand it is written for (R308). -/
def OperandKind.fits : OperandKind → Nat → Bool
  | .u8, n => n < 2 ^ 8
  | .u16, n => n < 2 ^ 16
  | .u32, n => n < 2 ^ 32
  | .bool, n => n < 2

/-- The operands of each row in the order of R305's "operands" column, with how each is written (R308). -/
def Mnemonic.operands : Mnemonic → List (OperandName × OperandKind)
  | .reset => []
  | .selfCheck => []
  | .irqSuspend => []
  | .irqResume => []
  | .update => [(.t, .u32)]
  | .readStatus => []
  | .readUpdown => []
  | .pullEvent => []
  | .readLevel => [(.a, .u8)]
  | .pushPulsed => [(.a, .u8), (.b, .u8), (.c, .bool)]
  | .pushPriority => [(.a, .u8), (.b, .u8)]
  | .pushTimed => [(.a, .u8), (.b, .u8), (.t, .u32), (.c, .bool)]
  | .setContinuous => [(.a, .u8), (.b, .bool)]
  | .solDisable => []
  | .solEnable => []
  | .readContMask => []
  | .setLamp => [(.a, .u8), (.b, .bool), (.c, .u8), (.m, .u16)]
  | .readLampState => [(.a, .u8)]
  | .readLampDim => [(.a, .u8)]
  | .readLampFlash => [(.a, .u8)]
  | .lampsOffAll => []
  | .flashAll => [(.t, .u32)]
  | .setDimDivisors => [(.a, .u8), (.b, .u8)]
  | .setDigits => [(.a, .u8), (.t, .u32), (.b, .bool), (.c, .u8)]
  | .setBlankMask => [(.a, .u8), (.b, .u8)]
  | .setCredits => [(.a, .u8), (.b, .bool), (.c, .bool)]
  | .setBip => [(.a, .u8), (.b, .bool), (.c, .bool)]
  | .pushSound => [(.a, .u8)]
  | .pushTimedSound => [(.a, .u8), (.t, .u32)]
  | .setSoundRange => [(.a, .u8), (.b, .u8)]

/-- A source command has its row's number of operands, each fitting its width (R308). -/
def SourceLine.wellFormed (l : SourceLine) : Bool :=
  l.operands.length == l.mnemonic.operands.length &&
  (l.mnemonic.operands.zip l.operands).all fun x => x.1.2.fits x.2

end Sys2Proof
end

