-- ==== Sys2Proof/Machine/Ops.lean ====
section
/-! DEFINITION. The operations the rules share: rings (R124), the bus and the bytes it leaves (R12, R202 to R205), control
lines (R13), loops, responses (R304), and raising a command error (R803), the block's one synchronous exception. -/

namespace Sys2Proof.Machine

/-! ### Rings (R124) -/

/-- The capacity CAP of a ring. -/
def Ring.cap (q : Ring) : Nat := q.buf.length

/-- `empty(q)`. -/
def Ring.empty (q : Ring) : Bool := q.head == q.tail

/-- `count(q) = (tail − head + CAP) mod CAP`. -/
def Ring.count (q : Ring) : Nat := (q.tail + q.cap - q.head) % q.cap

/-- `full(q)`. -/
def Ring.full (q : Ring) : Bool := (q.tail + 1) % q.cap == q.head

/-- `pushBack(q, v)`; none is the failed push, which changes nothing. -/
def Ring.pushBack (q : Ring) (v : Byte) : Option Ring :=
  if q.full then none
  else some { q with buf := q.buf.set q.tail v, tail := (q.tail + 1) % q.cap }

/-- `pushFront(q, v)`; none is the failed push, which changes nothing. -/
def Ring.pushFront (q : Ring) (v : Byte) : Option Ring :=
  if q.full then none
  else
    let head := (q.head + q.cap - 1) % q.cap
    some { q with buf := q.buf.set head v, head := head }

/-- `pop(q)`: the oldest entry and the ring without it; none when the ring is empty. -/
def Ring.pop (q : Ring) : Option (Byte × Ring) :=
  if q.empty then none
  else some (q.buf.getD q.head 0#8, { q with head := (q.head + 1) % q.cap })

/-- A push whose failure is silent (R805): a full ring stays as it is. -/
def Ring.pushed (q : Ring) (v : Byte) : Ring := (q.pushBack v).getD q

/-- `repeat n times: if not pushBack(q, v): return` (R453). -/
def Ring.pushBackN (q : Ring) (v : Byte) : Nat → Ring
  | 0 => q
  | n + 1 =>
    match q.pushBack v with
    | none => q
    | some q' => q'.pushBackN v n

/-- `repeat n times: if not pushFront(q, v): return` (R454). -/
def Ring.pushFrontN (q : Ring) (v : Byte) : Nat → Ring
  | 0 => q
  | n + 1 =>
    match q.pushFront v with
    | none => q
    | some q' => q'.pushFrontN v n

/-- The ring after a pop whose value is not looked at; an empty ring stays as it is. -/
def Ring.popped (q : Ring) : Ring :=
  match q.pop with
  | none => q
  | some (_, q') => q'

/-- The entries a ring holds, head first: what its consumer will see. -/
def Ring.entries (q : Ring) : List Byte :=
  (List.range q.count).map fun k => q.buf.getD ((q.head + k) % q.cap) 0#8

/-- A ring of capacity `cap` whose indices lie in 0..CAP−1 (R124). -/
def Ring.wf (q : Ring) (cap : Nat) : Bool := q.buf.length == cap && q.head < cap && q.tail < cap

/-! ### The bytes last written on the bus -/

/-- The byte a location holds, if the block has written one. -/
def Memory.read : Memory → Nat → Option Byte
  | [], _ => none
  | (b, w) :: rest, a => if a = b then some w else Memory.read rest a

/-- A location's byte replaced; the canonical form is kept. -/
def Memory.write : Memory → Nat → Byte → Memory
  | [], a, v => [(a, v)]
  | (b, w) :: rest, a, v =>
    if a < b then (a, v) :: (b, w) :: rest
    else if a = b then (a, v) :: rest
    else (b, w) :: Memory.write rest a v

/-- The canonical form: addresses strictly rising. No value stands for an unlisted address, so no entry can equal it. -/
def Memory.wf : Memory → Bool
  | [] => true
  | c :: rest => (rest.all fun d => c.1 < d.1) && Memory.wf rest

/-! ### Bus transactions (R12, R202 to R205) -/

/-- `BusWrite(addr, v)` on the bus: the trace records it and the location holds the byte. -/
def Bus.write (b : Bus) (addr : Nat) (v : Byte) : Bus :=
  { b with trace := b.trace ++ [.write addr v], latched := Memory.write b.latched addr v }

/-- The draw the bus environment answers the next BusRead with (R204): the next of `answers`, and past their end the
opaque draw of this read's number. No written byte has a say in it. -/
def Bus.draw (b : Bus) : Byte := b.answers.headD (Config.busDraw b.reads)

/-- `BusRead(addr)` on the bus: the trace records the draw (R205), which is used up. -/
def Bus.read (b : Bus) (addr : Nat) : Bus :=
  { b with trace := b.trace ++ [.read addr b.draw], answers := b.answers.tail, reads := b.reads + 1 }

/-- `BusWrite(addr, v)`. -/
def busWrite (addr : Nat) (v : Byte) (s : State) : State := { s with bus := s.bus.write addr v }

/-- The state after `BusRead(addr)`; the value read is `s.bus.draw`. -/
def busRead (addr : Nat) (s : State) : State := { s with bus := s.bus.read addr }

/-- A bus address plus an offset: sums on the type of addresses wrap modulo 2^P_BUS_ADDR_BITS (R10, log 9). -/
def busAddrPlus (c : Config) (a : BusAddr) (i : Nat) : Nat := (a.toNat + i) % 2 ^ c.busAddrBits

/-- `lineActive(line)` of R13, for the byte `r` that its one BusRead returns. -/
def lineLevel (l : Line) (r : Byte) : Bool := ((if l.activeLow then ~~~r else r) &&& l.mask) != 0#8

/-- `settle()` of R13: no effect on state or trace (R921). -/
def settle (s : State) : State := s

/-! ### Loops -/

/-- `for k in 0 .. n−1: body(k)`. -/
def forUpTo (n : Nat) (body : Nat → State → State) (s : State) : State :=
  (List.range n).foldl (fun s k => body k s) s

/-! ### Ends of a command -/

/-- `respond(b0, b1, …)` (R13): the command's response bytes (R304). A command without a response answers zero bytes. -/
def respond (bytes : List Byte) (s : State) : State := { s with responses := s.responses ++ [bytes] }

/-- `raise CommandError(code)` (R803): the error is recorded, the response is zero bytes, and nothing else changes. -/
def commandError (e : CommandError) (s : State) : State :=
  { s with errSticky := true, lastErr := errorCode e, responses := s.responses ++ [[]] }

/-- The end of every command but RESET: its effect once the block is initialised, and the model fault NOT_INITIALISED
before the first RESET (R806), which goes before every other check (R802). -/
def whenInitialised (s : State) (effect : State) : Host.Outcome State Fault Refusal :=
  if s.init then .next effect else .fault .notInitialised

/-- A frame that does not decode (R303): NOT_INITIALISED first (R802), else the command error. -/
def undecodable (e : CommandError) (s : State) : Host.Outcome State Fault Refusal :=
  whenInitialised s (commandError e s)

/-- What the block does under a configuration of R8's ranges and constraints; any other is refused (I13). -/
def whenConfigured (s : State) (outcome : Host.Outcome State Fault Refusal) : Host.Outcome State Fault Refusal :=
  if s.cfg.legal then outcome else .refused .illegalConfiguration

end Sys2Proof.Machine
end

