-- ==== Sys2Proof/Machine/Lamp.lean ====
section
/-! DEFINITION. The lamp strober with its dim and flash modulation (43_lamp.md). In `lampState` and on the bus, 1 means
off. -/

namespace Sys2Proof.Machine

/-- `dimCount()` of R502: the counter P_DIM_COUNTER names. -/
def dimCount (s : State) : U32 :=
  match s.cfg.dimCounter with
  | .lampCycle => s.lampCycle
  | .scanPass => s.scanCount
  | .firing => s.tickCount

/-- A dim overlay as the strobe applies it (R501): its bits, unless the count is a multiple of its divisor. -/
def dimOverlay (c : U32) (divisor overlay : Byte) : Byte :=
  if c.toNat % divisor.toNat = 0 then 0#8 else overlay

/-- The byte the strobe writes for bank `b` (R501). -/
def lampData (s : State) (b : Nat) : Byte :=
  s.lampState.getD b 0#8 ||| dimOverlay (dimCount s) s.dimDiv1 (s.lampDim1.getD b 0#8) |||
    dimOverlay (dimCount s) s.dimDiv2 (s.lampDim2.getD b 0#8)

/-- Procedure `lampStrobe()` of R501: select, then data, then the round-robin index. -/
def lampStrobe (s : State) : State :=
  let b := s.lampBank
  let v := lampData s b
  let s := busWrite s.cfg.lampSelectAddr.toNat (BitVec.ofNat 8 b) s
  let s := busWrite s.cfg.lampDataAddr.toNat v s
  if b = s.cfg.numLampBanks - 1 then { s with lampBank := 0, lampCycle := s.lampCycle + 1#32 }
  else { s with lampBank := b + 1 }

/-- Function `flashUnits(ms)` of R504. -/
def flashUnits (c : Config) (ms : U16) : Byte :=
  if ms = 0#16 then 0#8
  else BitVec.ofNat 8 (clampNat (ms.toNat / c.flashUnitMs.toNat) c.flashMin.toNat c.flashMax.toNat)

/-- The flash phase `(t / (p × P_FLASH_UNIT_MS)) mod 2 = 1` of R505: the lamp is on. -/
def flashOn (c : Config) (p : Byte) (t : U32) : Bool := t.toNat / (p.toNat * c.flashUnitMs.toNat) % 2 == 1

/-- One lamp of `applyFlash` (R505): only a flashing lamp's State bit is written. -/
def applyFlashLamp (t : U32) (l : Nat) (s : State) : State :=
  let p := s.flashPeriod.getD l 0#8
  if p = 0#8 then s
  else { s with lampState := setBankBit s.lampState l (!flashOn s.cfg p t) }

/-- Procedure `applyFlash(t)` of R505. -/
def applyFlash (t : U32) (s : State) : State := forUpTo s.cfg.nlamp (applyFlashLamp t) s

/-- SET_LAMP (R510): a lamp that does not exist, or a dim level above 2, makes the whole command a no-op. -/
def execSetLamp (a b c : Byte) (m : U16) (s : State) : Host.Outcome State Fault Refusal :=
  whenInitialised s <| respond [] <|
    if !lampExists s.cfg a || 2 < c.toNat then s
    else
      { s with
        lampState := setBankBit s.lampState a.toNat (!operandBool b)
        lampDim1 := setBankBit s.lampDim1 a.toNat (c == 1#8)
        lampDim2 := setBankBit s.lampDim2 a.toNat (c == 2#8)
        flashPeriod := s.flashPeriod.set a.toNat (flashUnits s.cfg m) }

/-- READ_LAMP_STATE (R511): 1 means on. -/
def execReadLampState (a : Byte) (s : State) : Host.Outcome State Fault Refusal :=
  whenInitialised s <|
    respond [if !lampExists s.cfg a then 0#8 else boolByte (!bankBit s.lampState a.toNat)] s

/-- READ_LAMP_DIM (R512): the Dim1 bit in bit 0, the Dim2 bit in bit 1. -/
def execReadLampDim (a : Byte) (s : State) : Host.Outcome State Fault Refusal :=
  whenInitialised s <|
    respond [if !lampExists s.cfg a then 0#8
      else boolByte (bankBit s.lampDim1 a.toNat) ||| (boolByte (bankBit s.lampDim2 a.toNat) <<< 1)] s

/-- READ_LAMP_FLASH (R513): the stored unit count. -/
def execReadLampFlash (a : Byte) (s : State) : Host.Outcome State Fault Refusal :=
  whenInitialised s <|
    respond [if !lampExists s.cfg a then 0#8 else s.flashPeriod.getD a.toNat 0#8] s

/-- LAMPS_OFF_ALL (R514). -/
def execLampsOffAll (s : State) : Host.Outcome State Fault Refusal :=
  whenInitialised s <| respond []
    { s with
      lampState := s.lampState.map fun _ => 0xFF#8
      lampDim1 := s.lampDim1.map fun _ => 0#8
      lampDim2 := s.lampDim2.map fun _ => 0#8
      flashPeriod := s.flashPeriod.map fun _ => 0#8 }

/-- FLASH_ALL (R515). -/
def execFlashAll (t : U32) (s : State) : Host.Outcome State Fault Refusal :=
  whenInitialised s <| respond [] <| applyFlash t
    { s with
      lampDim1 := s.lampDim1.map fun _ => 0#8
      lampDim2 := s.lampDim2.map fun _ => 0#8
      flashPeriod := s.flashPeriod.map fun _ => s.cfg.flashAllPeriod }

/-- SET_DIM_DIVISORS (R516): a zero in either makes it a no-op. -/
def execSetDimDivisors (a b : Byte) (s : State) : Host.Outcome State Fault Refusal :=
  whenInitialised s <| respond [] <|
    if a = 0#8 || b = 0#8 then s else { s with dimDiv1 := a, dimDiv2 := b }

end Sys2Proof.Machine
end

