-- ==== Sys2Proof/Machine/Solenoid.lean ====
section
/-! DEFINITION. The solenoid scheduler (42_solenoid.md): pulsed and priority pushes, timed entries, the continuous mask, the
disable gate, and the actuation of phase B. -/

namespace Sys2Proof.Machine

/-- Procedure `solPushPulsed(id, ticks, ovr)` of R453. -/
def solPushPulsed (id : Byte) (ticks : Byte) (ovr : Bool) (s : State) : State :=
  if !solenoidExists s.cfg id then s
  else if s.solDisabled && !ovr then s
  else { s with solq := s.solq.pushBackN id ticks.toNat }

/-- Procedure `solPushPriority(id, ticks)` of R454. -/
def solPushPriority (id : Byte) (ticks : Byte) (s : State) : State :=
  if !solenoidExists s.cfg id then s
  else if s.solDisabled then s
  else { s with solq := s.solq.pushFrontN id ticks.toNat }

/-- A timed solenoid slot is due at time `t`: active and `t ≥ fireAt`, an unsigned compare (R456). -/
def TimedSol.due (t : U32) (e : TimedSol) : Bool := e.active && e.fireAt.toNat ≤ t.toNat

/-- One slot of `timedSolScan` (R456): a due slot is freed, then its pulses are pushed through the gate. -/
def timedSolSlot (t : U32) (i : Nat) (s : State) : State :=
  match s.tsol[i]? with
  | none => s
  | some e =>
    if e.due t then
      solPushPulsed e.sol e.count e.ovr { s with tsol := s.tsol.set i { e with active := false } }
    else s

/-- Procedure `timedSolScan(t)` of R456. -/
def timedSolScan (t : U32) (s : State) : State := forUpTo s.cfg.tsolCap (timedSolSlot t) s

/-- The output pattern of R462 for the entry popped, if one was. -/
def solPattern (mask : U32) : Option Byte → U32
  | none => mask
  | some x => mask ||| bit32 x.toNat

/-- The bus writes of R462: byte `i` of the pattern goes to P_SOL_ADDR + i, the low byte first (R203). -/
def solWrite (pat : U32) (s : State) : State :=
  forUpTo s.cfg.nsolb (fun i s => busWrite (busAddrPlus s.cfg s.cfg.solAddr i) (pat.extractLsb' (8 * i) 8) s) s

/-- Procedure `solenoidActuate()` of R462. -/
def solenoidActuate (s : State) : State :=
  let x := s.solq.pop.map Prod.fst
  let s := { s with solq := s.solq.popped }
  solWrite (solPattern s.contMask x) s

/-- PUSH_PULSED (R453). -/
def execPushPulsed (a b c : Byte) (s : State) : Host.Outcome State Fault Refusal :=
  whenInitialised s (respond [] (solPushPulsed a b (operandBool c) s))

/-- PUSH_PRIORITY (R454). -/
def execPushPriority (a b : Byte) (s : State) : Host.Outcome State Fault Refusal :=
  whenInitialised s (respond [] (solPushPriority a b s))

/-- PUSH_TIMED (R455): the lowest free slot is claimed, response 1; response 0 for an id that does not exist or when no
slot is free. -/
def execPushTimed (a b : Byte) (t : U32) (c : Byte) (s : State) : Host.Outcome State Fault Refusal :=
  whenInitialised s <|
    if !solenoidExists s.cfg a then respond [0#8] s
    else
      match s.tsol.findIdx? (fun e => !e.active) with
      | some i =>
        respond [1#8] { s with tsol := s.tsol.set i { active := true, fireAt := t, sol := a, count := b, ovr := operandBool c } }
      | none => respond [0#8] s

/-- SET_CONTINUOUS (R458). -/
def execSetContinuous (a b : Byte) (s : State) : Host.Outcome State Fault Refusal :=
  whenInitialised s <| respond [] <|
    if !continuousAllowed s.cfg a then s
    else if operandBool b then { s with contMask := s.contMask ||| bit32 a.toNat }
    else { s with contMask := s.contMask &&& ~~~bit32 a.toNat }

/-- SOL_DISABLE (R459). -/
def execSolDisable (s : State) : Host.Outcome State Fault Refusal :=
  whenInitialised s (respond [] { s with solDisabled := true })

/-- SOL_ENABLE (R460). -/
def execSolEnable (s : State) : Host.Outcome State Fault Refusal :=
  whenInitialised s (respond [] { s with solDisabled := false })

/-- READ_CONT_MASK (R461): the mask, little-endian. -/
def execReadContMask (s : State) : Host.Outcome State Fault Refusal :=
  whenInitialised s (respond (bytes32 s.contMask) s)

end Sys2Proof.Machine
end

