-- ==== Sys2Proof/Machine/Sound.lean ====
section
/-! DEFINITION. The sound command stack (45_sound.md). -/

namespace Sys2Proof.Machine

/-- Function `sndLegal(v)` of R600; both bounds are included. -/
def sndLegal (s : State) (v : Byte) : Bool := s.sndLo.toNat ≤ v.toNat && v.toNat ≤ s.sndHi.toNat

/-- Procedure `sndPush(v)` of R600; its result is `sndLegal s v`. A full stack drops the value silently. -/
def sndPush (v : Byte) (s : State) : State :=
  if !sndLegal s v then s else { s with sndq := s.sndq.pushed v }

/-- A timed sound slot is due at time `t`: active and `t ≥ fireAt`, an unsigned compare (R603). -/
def TimedSnd.due (t : U32) (e : TimedSnd) : Bool := e.active && e.fireAt.toNat ≤ t.toNat

/-- One slot of `timedSndScan` (R603): a due slot is freed, then its value is pushed through the range check. -/
def timedSndSlot (t : U32) (i : Nat) (s : State) : State :=
  match s.tsnd[i]? with
  | none => s
  | some e =>
    if e.due t then sndPush e.val { s with tsnd := s.tsnd.set i { e with active := false } }
    else s

/-- Procedure `timedSndScan(t)` of R603. -/
def timedSndScan (t : U32) (s : State) : State := forUpTo s.cfg.tsndCap (timedSndSlot t) s

/-- Procedure `soundActuate()` of R605: one pop, one write, the silent value when nothing was queued. -/
def soundActuate (s : State) : State :=
  let x := s.sndq.pop.map Prod.fst
  let s := { s with sndq := s.sndq.popped }
  busWrite s.cfg.soundAddr.toNat (x.getD s.cfg.soundSilent) s

/-- PUSH_SOUND (R601): the response tells only the range check. -/
def execPushSound (a : Byte) (s : State) : Host.Outcome State Fault Refusal :=
  whenInitialised s (respond [boolByte (sndLegal s a)] (sndPush a s))

/-- PUSH_TIMED_SOUND (R602): the range is checked at registration, and the lowest free slot is claimed. -/
def execPushTimedSound (a : Byte) (t : U32) (s : State) : Host.Outcome State Fault Refusal :=
  whenInitialised s <|
    if !sndLegal s a then respond [0#8] s
    else
      match s.tsnd.findIdx? (fun e => !e.active) with
      | some i => respond [1#8] { s with tsnd := s.tsnd.set i { active := true, fireAt := t, val := a } }
      | none => respond [0#8] s

/-- SET_SOUND_RANGE (R604). -/
def execSetSoundRange (a b : Byte) (s : State) : Host.Outcome State Fault Refusal :=
  whenInitialised s (respond [] { s with sndLo := a, sndHi := b })

end Sys2Proof.Machine
end

