-- ==== Sys2Proof/Machine/Control.lean ====
section
/-! DEFINITION. The control, status and main-loop commands (47_control.md). -/

namespace Sys2Proof.Machine

/-- Every field of S at its reset value (R700, R130). The parameters, the inputs still to come, the bus and the responses
given so far are no fields of S and stay (R700, R903). -/
def resetFields (s : State) : State :=
  { State.resetOf s.cfg with inputs := s.inputs, bus := s.bus, responses := s.responses }

/-- RESET (R700): the one command that runs before the first RESET (R806). -/
def execReset (s : State) : Host.Outcome State Fault Refusal := .next (respond [] (resetFields s))

/-- One subsystem of SELF_CHECK (R701): write the pattern, read it back. -/
def selfCheckPair (e : SelfCheckEntry) (s : State) : State := busRead e.addr.toNat (busWrite e.addr.toNat e.pat s)

/-- Whether a subsystem fails: the readback, the draw after the write, differs from the pattern (R701). -/
def selfCheckFails (e : SelfCheckEntry) (s : State) : Bool := (busWrite e.addr.toNat e.pat s).bus.draw != e.pat

/-- The subsystems of SELF_CHECK in order from number `k` on (R701): the failure mask so far and the state. -/
def selfCheckFrom : List SelfCheckEntry → Nat → Byte × State → Byte × State
  | [], _, r => r
  | e :: rest, k, (m, s) =>
    selfCheckFrom rest (k + 1)
      (if selfCheckFails e s then m ||| (1#8 <<< k) else m, selfCheckPair e s)

/-- SELF_CHECK (R701): refused unless the interrupt source is suspended. -/
def execSelfCheck (s : State) : Host.Outcome State Fault Refusal :=
  whenInitialised s <|
    if !s.irqSuspended then commandError .selfCheckRefused s
    else
      let r := selfCheckFrom s.cfg.selfCheck.toList 0 (0#8, s)
      respond [r.1] r.2

/-- IRQ_SUSPEND (R702). -/
def execIrqSuspend (s : State) : Host.Outcome State Fault Refusal :=
  whenInitialised s (respond [] { s with irqSuspended := true })

/-- IRQ_RESUME (R703): the pending step may become enabled; no firing runs here. -/
def execIrqResume (s : State) : Host.Outcome State Fault Refusal :=
  whenInitialised s (respond [] { s with irqSuspended := false })

/-- UPDATE (R704): timed solenoids, then timed sounds, then flash. -/
def execUpdate (t : U32) (s : State) : Host.Outcome State Fault Refusal :=
  whenInitialised s (respond [] (applyFlash t (timedSndScan t (timedSolScan t s))))

/-- READ_STATUS (R705). -/
def execReadStatus (s : State) : Host.Outcome State Fault Refusal :=
  whenInitialised s (respond [statusByte s] s)

/-- READ_UPDOWN (R706): returns the latch and clears it; the lock-out timer stays. -/
def execReadUpdown (s : State) : Host.Outcome State Fault Refusal :=
  whenInitialised s (respond [boolByte s.udEvent] { s with udEvent := false })

end Sys2Proof.Machine
end

