-- ==== Sys2Proof/Machine/Display.lean ====
section
/-! DEFINITION. The display multiplexer (44_display.md). -/

namespace Sys2Proof.Machine

/-- The decimal digit of `v` at position `k`: `(v / 10^k) mod 10` (R551). -/
def decimalDigit (v k : Nat) : Fin 10 := Fin.ofNat 10 (v / 10 ^ k)

/-- `sig(v)` of R552 with at most `n` digits looked at. -/
def sigUpTo : Nat → Nat → Nat
  | 0, _ => 0
  | n + 1, v => if v < 10 then 1 else 1 + sigUpTo n (v / 10)

/-- `sig(v)` of R552: a u32 has 1 to 10 decimal digits. -/
def sig (v : U32) : Nat := sigUpTo 10 v.toNat

/-- The mask of the `n` low positions, `(1 << n) − 1`, as a u8. -/
def lowPositions (n : Nat) : Byte := BitVec.ofNat 8 (2 ^ n - 1)

/-- Function `magMask(v, minDigits)` of R552. -/
def magMask (c : Config) (v : U32) (minDigits : Byte) : Byte :=
  lowPositions (min c.digits (max (sig v) minDigits.toNat))

/-- SET_DIGITS (R551): a display index of 5 or more makes it a no-op. -/
def execSetDigits (a : Byte) (v : U32) (b c : Byte) (s : State) : Host.Outcome State Fault Refusal :=
  whenInitialised s <| respond [] <|
    if h : a.toNat < 5 then
      let d : Display :=
        { digits := (List.range s.cfg.digits).map (decimalDigit v.toNat)
          mask := if operandBool b then magMask s.cfg v c else s.displays[a.toNat].mask }
      { s with displays := s.displays.set a.toNat d }
    else s

/-- SET_BLANK_MASK (R553): bits at and above P_DIGITS are discarded. -/
def execSetBlankMask (a b : Byte) (s : State) : Host.Outcome State Fault Refusal :=
  whenInitialised s <| respond [] <|
    if h : a.toNat < 5 then
      let d : Display := { s.displays[a.toNat] with mask := b &&& lowPositions s.cfg.digits }
      { s with displays := s.displays.set a.toNat d }
    else s

/-- The sub-display that R554 makes of its operands: value modulo 100, `on`, `showBoth`. -/
def subDisplayOf (a b c : Byte) : SubDisplay :=
  let w := a.toNat % 100
  { digit0 := decimalDigit w 0
    digit1 := decimalDigit w 1
    mask := if !operandBool b then 0b00#2 else if operandBool c || 10 ≤ w then 0b11#2 else 0b01#2 }

/-- SET_CREDITS (R554). -/
def execSetCredits (a b c : Byte) (s : State) : Host.Outcome State Fault Refusal :=
  whenInitialised s (respond [] { s with cred := subDisplayOf a b c })

/-- SET_BIP (R554). -/
def execSetBip (a b c : Byte) (s : State) : Host.Outcome State Fault Refusal :=
  whenInitialised s (respond [] { s with bip := subDisplayOf a b c })

/-- A digit of a sub-display by position. -/
def SubDisplay.digit (x : SubDisplay) (k : Nat) : Fin 10 := if k = 0 then x.digit0 else x.digit1

/-- The digit at a strobe slot (R556). -/
def slotDigit (s : State) (x : Slot) : Fin 10 :=
  match x.owner with
  | .primary d => s.displays[d].digits.getD x.k 0
  | .cred => s.cred.digit x.k
  | .bip => s.bip.digit x.k

/-- The enable bit at a strobe slot (R556). -/
def slotEnabled (s : State) (x : Slot) : Bool :=
  match x.owner with
  | .primary d => s.displays[d].mask.getLsbD x.k
  | .cred => s.cred.mask.getLsbD x.k
  | .bip => s.bip.mask.getLsbD x.k

/-- The data byte the strobe writes for a slot (R556): the digit, or the blank code. -/
def slotData (s : State) (x : Slot) : Byte :=
  if slotEnabled s x then BitVec.ofNat 8 (slotDigit s x).val else s.cfg.dispBlankCode

/-- Procedure `displayStrobe()` of R556: row select, then data, then the position. The sequence has a slot at every
position the block reaches (log 8). -/
def displayStrobe (s : State) : State :=
  match s.cfg.displaySequence[s.dispPos]? with
  | none => s
  | some x =>
    let v := slotData s x
    let s := busWrite s.cfg.dispSelectAddr.toNat x.sel s
    let s := busWrite s.cfg.dispDataAddr.toNat v s
    { s with dispPos := (s.dispPos + 1) % s.cfg.numSlots }

end Sys2Proof.Machine
end

