-- ==== Sys2Proof/Machine/Switch.lean ====
section
/-! DEFINITION. The switch debounce engine and its event queue (41_switch.md). -/

namespace Sys2Proof.Machine

/-- Procedure `swqPush(n)` of R401: the self-test number is not queued behind itself as the oldest entry, and a full queue
drops the number silently. -/
def swqPush (n : Byte) (s : State) : State :=
  if n == s.cfg.swSelfTest && !s.swq.empty && s.swq.buf.getD s.swq.head 0#8 == n then s
  else { s with swq := s.swq.pushed n }

/-- A sample from a raw return-line byte (R400): 1 means closed. -/
def swSample (c : Config) (r : Byte) : Byte := if c.swActiveLow then ~~~r else r

/-- The history shift of R402: Minus2 takes Minus1, then Minus1 takes Now. -/
def swShift (g : Nat) (s : State) : State :=
  let s := { s with swM2 := s.swM2.set g (s.swM1.getD g 0#8) }
  { s with swM1 := s.swM1.set g (s.swNow.getD g 0#8) }

/-- Procedure `swSampleGroup(g)` of R402. -/
def swSampleGroup (g : Nat) (s : State) : State :=
  let s := swShift g s
  let s := settle (busWrite s.cfg.swStrobeAddr.toNat (s.cfg.swStrobeValue.getD g 0#8) s)
  let r := s.bus.draw
  let s := busRead s.cfg.swReturnAddr.toNat s
  { s with swNow := s.swNow.set g (swSample s.cfg r) }

/-- The validated closures of group `g` (R404): `Now & Minus1 & ~Minus2`. -/
def swValid (s : State) (g : Nat) : Byte :=
  s.swNow.getD g 0#8 &&& s.swM1.getD g 0#8 &&& ~~~(s.swM2.getD g 0#8)

/-- The first closed samples of group `g` (R405): `Now & ~Minus1`. -/
def swStarting (s : State) (g : Nat) : Byte := s.swNow.getD g 0#8 &&& ~~~(s.swM1.getD g 0#8)

/-- The events of one group in `switchScan` (R403), in ascending bit order. -/
def swEnqueueGroup (g : Nat) (s : State) : State :=
  let valid := swValid s g
  forUpTo 8 (fun b s => if valid.getLsbD b then swqPush (BitVec.ofNat 8 (8 * g + b)) s else s) s

/-- One entry of `priorityScan` (R405). -/
def priorityStep (e : PriorityEntry) (s : State) : State :=
  let n := e.switchNumber.toNat
  if n < s.cfg.nsw && (swStarting s (n / 8)).getLsbD (n % 8) then
    solPushPriority e.solenoidNumber e.holdTicks s
  else s

/-- Procedure `priorityScan()` of R405: the table in list order, on first closed samples, before validation. -/
def priorityScan (s : State) : State := s.cfg.priorityTable.foldl (fun s e => priorityStep e s) s

/-- Procedure `switchScan()` of R403: every group is sampled, then events are queued in ascending switch number, then the
priority path runs. -/
def switchScan (s : State) : State :=
  let s := forUpTo s.cfg.numSwGroups swSampleGroup s
  let s := forUpTo s.cfg.numSwGroups swEnqueueGroup s
  priorityScan s

/-- Procedure `selfTestRead()` of R406. -/
def selfTestRead (s : State) : State :=
  let a := lineLevel s.cfg.selfTestLine s.bus.draw
  let s := busRead s.cfg.selfTestLine.addr.toNat s
  let s := { s with selfTestLevel := a }
  if a then swqPush s.cfg.swSelfTest s else s

/-- PULL_EVENT (R411): the oldest event, or 0xFF when there is none (R410). -/
def execPullEvent (s : State) : Host.Outcome State Fault Refusal :=
  whenInitialised s <|
    match s.swq.pop with
    | none => respond [0xFF#8] s
    | some (x, q) => respond [x] { s with swq := q }

/-- The level READ_LEVEL returns (R412). -/
def switchLevel (s : State) (n : Nat) : Bool :=
  if n < s.cfg.nsw then bankBit s.swNow n
  else if n = s.cfg.swSelfTest.toNat then s.selfTestLevel
  else false

/-- READ_LEVEL (R412). -/
def execReadLevel (a : Byte) (s : State) : Host.Outcome State Fault Refusal :=
  whenInitialised s (respond [boolByte (switchLevel s a.toNat)] s)

end Sys2Proof.Machine
end

