-- ==== Sys2Proof/Machine/Dispatch.lean ====
section
/-! DEFINITION. One arm per command of the opcode map (R305). -/

namespace Sys2Proof.Machine

def exec (i : Instr) (s : State) : Host.Outcome State Fault Refusal :=
  match i with
  | .reset => Sys2Proof.Machine.execReset s
  | .selfCheck => Sys2Proof.Machine.execSelfCheck s
  | .irqSuspend => Sys2Proof.Machine.execIrqSuspend s
  | .irqResume => Sys2Proof.Machine.execIrqResume s
  | .update t => Sys2Proof.Machine.execUpdate t s
  | .readStatus => Sys2Proof.Machine.execReadStatus s
  | .readUpdown => Sys2Proof.Machine.execReadUpdown s
  | .pullEvent => Sys2Proof.Machine.execPullEvent s
  | .readLevel a => Sys2Proof.Machine.execReadLevel a s
  | .pushPulsed a b c => Sys2Proof.Machine.execPushPulsed a b c s
  | .pushPriority a b => Sys2Proof.Machine.execPushPriority a b s
  | .pushTimed a b t c => Sys2Proof.Machine.execPushTimed a b t c s
  | .setContinuous a b => Sys2Proof.Machine.execSetContinuous a b s
  | .solDisable => Sys2Proof.Machine.execSolDisable s
  | .solEnable => Sys2Proof.Machine.execSolEnable s
  | .readContMask => Sys2Proof.Machine.execReadContMask s
  | .setLamp a b c m => Sys2Proof.Machine.execSetLamp a b c m s
  | .readLampState a => Sys2Proof.Machine.execReadLampState a s
  | .readLampDim a => Sys2Proof.Machine.execReadLampDim a s
  | .readLampFlash a => Sys2Proof.Machine.execReadLampFlash a s
  | .lampsOffAll => Sys2Proof.Machine.execLampsOffAll s
  | .flashAll t => Sys2Proof.Machine.execFlashAll t s
  | .setDimDivisors a b => Sys2Proof.Machine.execSetDimDivisors a b s
  | .setDigits a v b c => Sys2Proof.Machine.execSetDigits a v b c s
  | .setBlankMask a b => Sys2Proof.Machine.execSetBlankMask a b s
  | .setCredits a b c => Sys2Proof.Machine.execSetCredits a b c s
  | .setBip a b c => Sys2Proof.Machine.execSetBip a b c s
  | .pushSound a => Sys2Proof.Machine.execPushSound a s
  | .pushTimedSound a t => Sys2Proof.Machine.execPushTimedSound a t s
  | .setSoundRange a b => Sys2Proof.Machine.execSetSoundRange a b s

end Sys2Proof.Machine
end

