-- ==== Sys2Proof/Machine/Dispatcher.lean ====
section
/-! DEFINITION. The interrupt dispatcher (46_dispatcher.md, R807 to R811): taking the timer interrupt, now or pending, and
the firing, its fixed handler. Entry saves nothing and return restores nothing (R809, R810). -/

namespace Sys2Proof.Machine

/-- Procedure `upDownDebounce()` of R654. -/
def upDownDebounce (s : State) : State :=
  let a := lineLevel s.cfg.udLine s.bus.draw
  let s := busRead s.cfg.udLine.addr.toNat s
  if s.udTimer ≠ 0#8 then { s with udTimer := s.udTimer - 1#8 }
  else if a then { s with udEvent := true, udTimer := s.cfg.udTimeout }
  else s

/-- The work of phase A in `firing()` (R652): lamp strobe, self-test line, switch scan, and the scan count. -/
def scanPass (s : State) : State :=
  let s := switchScan (selfTestRead (lampStrobe s))
  { s with scanCount := s.scanCount + 1#32 }

/-- The work of phase B in `firing()` (R652): solenoids, then sound. -/
def actuatePass (s : State) : State := soundActuate (solenoidActuate s)

/-- The other phase (R651). -/
def Phase.other : Phase → Phase
  | .A => .B
  | .B => .A

/-- Procedure `firing()` of R652, one run of the interrupt handler. -/
def firing (s : State) : State :=
  let s := displayStrobe s
  let s :=
    match s.phase with
    | .A => scanPass s
    | .B => actuatePass s
  let s := upDownDebounce s
  { s with phase := s.phase.other, tickCount := s.tickCount + 1#32 }

/-- `onTimerEvent()` of R650: ignored before the first RESET, held as one pending firing while suspended, else taken. -/
def timerEvent (s : State) : State :=
  if !s.init then s
  else if s.irqSuspended then { s with firePending := true }
  else firing s

/-- When the pending step is enabled (R653). -/
def pendingEnabled (s : State) : Bool := s.init && !s.irqSuspended && s.firePending

/-- `pendingStep()` of R653, taken at the dispatcher's turn; a turn while it is not enabled does nothing (log 3). -/
def pendingTurn (s : State) : State :=
  if pendingEnabled s then firing { s with firePending := false } else s

end Sys2Proof.Machine
end

