-- ==== Sys2Proof/Machine/Step.lean ====
section
/-! DEFINITION. One step of the machine: the next input of the run, taken whole (R210, R211). -/

namespace Sys2Proof.Machine

/-- A host command frame (R303): the decoded command's meaning, or the decoding error. -/
def runFrame (f : Frame) (s : State) : Host.Outcome State Fault Refusal :=
  match decode f with
  | .ok i => exec i s
  | .error e => undecodable e s

/-- One atomic step (R210): the first of the inputs still to come is taken, by the agent it belongs to (R7). A
configuration outside R8's constraints is refused (I13). With no input to come the block is idle (R818, log 2). -/
def step (s : State) : Host.Outcome State Fault Refusal :=
  match s.inputs with
  | [] => whenConfigured s (.next s)
  | .command f :: rest => whenConfigured s (runFrame f { s with inputs := rest })
  | .timer :: rest => whenConfigured s (.next (timerEvent { s with inputs := rest }))
  | .pending :: rest => whenConfigured s (.next (pendingTurn { s with inputs := rest }))

/-- The state whose next input is the host command whose frame begins with the bits of `w` (log 4): the one thing the
next step needs. -/
def State.withFetchWord (s : State) (nbits w : Nat) : State :=
  { s with inputs := .command (frameOfTableWord nbits w) :: s.inputs }

end Sys2Proof.Machine
end

