-- ==== Sys2Proof/Safety.lean ====
section
/-! DEFINITION. What holds of every state the machine reaches from RESET (R129), the shape of a firing's bus trace (R655),
and the words that statements about several instructions use. -/

namespace Sys2Proof.Machine

/-- The invariant of R129, with the index ranges and array lengths of 10_state.md. Clause (c) speaks of a past moment and is
no predicate of one state: Obligations.StepKeepsInvariant states it of what each step adds. Clause (f) is the type of a
digit. -/
structure State.Inv (s : State) : Prop where
  legal : s.cfg.legal = true
  swq : s.swq.wf s.cfg.swqCap = true
  solq : s.solq.wf s.cfg.solqCap = true
  sndq : s.sndq.wf s.cfg.sndqCap = true
  /-- (b): every entry of the solenoid ring names a solenoid. -/
  solqIds : ∀ x ∈ s.solq.entries, x.toNat < s.cfg.numSolenoids
  /-- (d): the continuous mask stays within the allowed ids. -/
  contMask : s.contMask &&& ~~~(s.cfg.contAllowed &&& idMask s.cfg.numSolenoids) = 0#32
  /-- (e): a flash period is 0 or in the configured range. -/
  flash : ∀ p ∈ s.flashPeriod, p = 0#8 ∨ (s.cfg.flashMin.toNat ≤ p.toNat ∧ p.toNat ≤ s.cfg.flashMax.toNat)
  /-- (g): no enable bit at or above P_DIGITS. -/
  dispMask : ∀ d : Fin 5, s.displays[d].mask.toNat < 2 ^ s.cfg.digits
  /-- (h): no divisor is 0. -/
  dimDiv : s.dimDiv1 ≠ 0#8 ∧ s.dimDiv2 ≠ 0#8
  /-- (i): the lock-out timer stays within its timeout. -/
  udTimer : s.udTimer.toNat ≤ s.cfg.udTimeout.toNat
  /-- (j): every active timed slot names a solenoid. -/
  tsolIds : ∀ e ∈ s.tsol, e.active = true → e.sol.toNat < s.cfg.numSolenoids
  lampBank : s.lampBank < s.cfg.numLampBanks
  dispPos : s.dispPos < s.cfg.numSlots
  switchBanks : s.swNow.length = s.cfg.numSwGroups ∧ s.swM1.length = s.cfg.numSwGroups ∧ s.swM2.length = s.cfg.numSwGroups
  lampBanks : s.lampState.length = s.cfg.numLampBanks ∧ s.lampDim1.length = s.cfg.numLampBanks ∧
    s.lampDim2.length = s.cfg.numLampBanks ∧ s.flashPeriod.length = s.cfg.nlamp
  slots : s.tsol.length = s.cfg.tsolCap ∧ s.tsnd.length = s.cfg.tsndCap
  displayDigits : ∀ d : Fin 5, s.displays[d].digits.length = s.cfg.digits
  /-- The bytes last written on the bus keep their canonical form and lie in the address space (R201). -/
  latched : Memory.wf s.bus.latched = true ∧ ∀ c ∈ s.bus.latched, c.1 < 2 ^ s.cfg.busAddrBits

/-- A transaction without its byte: whether it writes, and where. -/
def Transaction.shape : Transaction → Bool × Nat
  | .read a _ => (false, a)
  | .write a _ => (true, a)

/-- The byte that the last write to a location, among some transactions, carries; none if none of them writes there. -/
def lastWrite (a : Nat) : List Transaction → Option Byte
  | [] => none
  | .read _ _ :: rest => lastWrite a rest
  | .write b v :: rest =>
    match lastWrite a rest with
    | some w => some w
    | none => if b = a then some v else none

/-- How many of some transactions are reads. -/
def readCount : List Transaction → Nat
  | [] => 0
  | .read _ _ :: rest => readCount rest + 1
  | .write _ _ :: rest => readCount rest

/-- The shape R655 gives a firing of each phase: `true` for a write, and the address. That the solenoid bytes' addresses
wrap at the top of the bus space is log 9. -/
def firingShape (c : Config) (p : Phase) : List (Bool × Nat) :=
  [(true, c.dispSelectAddr.toNat), (true, c.dispDataAddr.toNat)] ++
  (match p with
   | .A =>
     [(true, c.lampSelectAddr.toNat), (true, c.lampDataAddr.toNat), (false, c.selfTestLine.addr.toNat)] ++
     (List.range c.numSwGroups).flatMap fun _ => [(true, c.swStrobeAddr.toNat), (false, c.swReturnAddr.toNat)]
   | .B =>
     ((List.range c.nsolb).map fun i => (true, (c.solAddr.toNat + i) % 2 ^ c.busAddrBits)) ++
     [(true, c.soundAddr.toNat)]) ++
  [(false, c.udLine.addr.toNat)]

/-- The answer the bus environment gives to the `k`-th BusRead from now on, counted from 0 (R204). -/
def drawAt (b : Bus) (k : Nat) : Byte := (b.answers.drop k).headD (Config.busDraw (b.reads + k))

/-- The transactions R655 gives a firing from state `s`, in order, with the bytes that R556, R501, R402, R462 and R605
write and the draws it reads (log 5); the solenoid bytes' addresses wrap (log 9). -/
def firingTransactions (s : State) : List Transaction :=
  (match s.cfg.displaySequence[s.dispPos]? with
   | none => []
   | some x => [.write s.cfg.dispSelectAddr.toNat x.sel, .write s.cfg.dispDataAddr.toNat (slotData s x)]) ++
  (match s.phase with
   | .A =>
     [.write s.cfg.lampSelectAddr.toNat (BitVec.ofNat 8 s.lampBank),
      .write s.cfg.lampDataAddr.toNat (lampData s s.lampBank),
      .read s.cfg.selfTestLine.addr.toNat (drawAt s.bus 0)] ++
     ((List.range s.cfg.numSwGroups).flatMap fun g =>
       [.write s.cfg.swStrobeAddr.toNat (s.cfg.swStrobeValue.getD g 0#8),
        .read s.cfg.swReturnAddr.toNat (drawAt s.bus (g + 1))]) ++
     [.read s.cfg.udLine.addr.toNat (drawAt s.bus (s.cfg.numSwGroups + 1))]
   | .B =>
     ((List.range s.cfg.nsolb).map fun i =>
       .write ((s.cfg.solAddr.toNat + i) % 2 ^ s.cfg.busAddrBits)
         ((solPattern s.contMask s.solq.entries.head?).extractLsb' (8 * i) 8)) ++
     [.write s.cfg.soundAddr.toNat (s.sndq.entries.head?.getD s.cfg.soundSilent),
      .read s.cfg.udLine.addr.toNat (drawAt s.bus 0)])

/-- The pulses that the timed slots due at `t` stand for, in slot order (R456): a slot whose solenoid does not exist, or
that the disable gate stops, stands for none. -/
def duePulses (t : U32) (s : State) : List Byte :=
  (s.tsol.filter fun e =>
    e.active && e.fireAt.toNat ≤ t.toNat && e.sol.toNat < s.cfg.numSolenoids && (e.ovr || !s.solDisabled)).flatMap fun e =>
      List.replicate e.count.toNat e.sol

/-- The sound values that the timed slots due at `t` stand for, in slot order (R603): a value out of range stands for
none. -/
def dueSounds (t : U32) (s : State) : List Byte :=
  (s.tsnd.filter fun e =>
    e.active && e.fireAt.toNat ≤ t.toNat && s.sndLo.toNat ≤ e.val.toNat && e.val.toNat ≤ s.sndHi.toNat).map TimedSnd.val

/-- The switches validated by the last scan pass (R404), in ascending order. -/
def validatedSwitches (s : State) : List Nat :=
  (List.range s.cfg.nsw).filter fun n => bankBit s.swNow n && bankBit s.swM1 n && !bankBit s.swM2 n

end Sys2Proof.Machine
end

