-- ==== Sys2Proof/Certificates/Slice0/Obligations.lean ====
section
/-! DEFINITION. The statements for the provers, each formalising the rules of spec/ its docstring names. -/

open Sys2Proof Sys2Proof.Machine

/-! ### Encoding -/

/-- Decoding the frame of any command gives the command back: no bit of an operand is dropped (R301, R302, R305). -/
def Obligations.DecodeOfEncode : Prop :=
  ∀ i : Instr, decode (encode i) = .ok i

/-- A frame that decodes is the frame of the command it decodes to: every frame has one meaning (R301, R302, R305). -/
def Obligations.EncodeOfDecode : Prop :=
  ∀ (f : Frame) (i : Instr), decode f = .ok i → encode i = f

/-- R303: the opcode is checked first, then the length, and a frame that passes both decodes to a command of its opcode's
row that carries every byte of the frame. -/
def Obligations.DecodingOrder : Prop :=
  ∀ f : Frame,
    ((∀ k : Mnemonic, k.opcode ≠ f.op) → decode f = .error .illegalOpcode) ∧
    ∀ k : Mnemonic, k.opcode = f.op →
      (f.length ≠ k.format.length → decode f = .error .badLength) ∧
      (f.length = k.format.length → ∃ i, decode f = .ok i ∧ i.mnemonic = k ∧ encode i = f)

/-- R306: exactly the opcodes of the listed ranges are illegal, whatever follows them, and within a legal frame every
operand value is accepted. -/
def Obligations.IllegalOpcodes : Prop :=
  (∀ (op : Byte) (rest : List Byte), decode { op := op, rest := rest } = .error .illegalOpcode ↔
    (0x07 ≤ op.toNat ∧ op.toNat ≤ 0x0F) ∨ (0x12 ≤ op.toNat ∧ op.toNat ≤ 0x1F) ∨ (0x27 ≤ op.toNat ∧ op.toNat ≤ 0x2F) ∨
    (0x37 ≤ op.toNat ∧ op.toNat ≤ 0x3F) ∨ (0x44 ≤ op.toNat ∧ op.toNat ≤ 0x4F) ∨ 0x53 ≤ op.toNat) ∧
  ∀ (k : Mnemonic) (o : Operands), ∃ i, decode { op := k.opcode, rest := k.format.emit o } = .ok i ∧ i.mnemonic = k

/-- Frames written out from R301, R302 and R305 decode to the commands they stand for. -/
def Obligations.WrittenFramesDecode : Prop :=
  decode { op := 0x04#8, rest := [0xE8#8, 0x03#8, 0x00#8, 0x00#8] } = .ok (.update 1000#32) ∧
  decode { op := 0x11#8, rest := [0x0A#8] } = .ok (.readLevel 10#8) ∧
  decode { op := 0x22#8, rest := [0x05#8, 0x01#8, 0x10#8, 0x27#8, 0x00#8, 0x00#8, 0x01#8] } =
    .ok (.pushTimed 5#8 1#8 10000#32 1#8) ∧
  decode { op := 0x30#8, rest := [0x0C#8, 0x01#8, 0x00#8, 0xF4#8, 0x01#8] } = .ok (.setLamp 12#8 1#8 0#8 500#16) ∧
  decode { op := 0x40#8, rest := [0x00#8, 0xD2#8, 0x04#8, 0x00#8, 0x00#8, 0x01#8, 0x02#8] } =
    .ok (.setDigits 0#8 1234#32 1#8 2#8) ∧
  decode { op := 0x51#8, rest := [0x1E#8, 0x00#8, 0x00#8, 0x00#8, 0x00#8] } = .ok (.pushTimedSound 30#8 0#32)

/-! ### Steps -/

/-- A step at a host frame that decodes runs the decoded command, on the state whose input that frame no longer is (R210,
R303). That the inputs of a run stand in a list is the model's choice (log 1). -/
def Obligations.FrameRunsItsCommand : Prop :=
  ∀ (s : State) (f : Frame) (rest : List Input) (i : Instr),
    s.cfg.legal = true → s.inputs = .command f :: rest → decode f = .ok i →
    step s = exec i { s with inputs := rest }

/-- A step at a frame that does not decode records the error's code, answers zero bytes and changes nothing else, once the
block is initialised (R303, R801, R803). -/
def Obligations.DecodingErrorIsRecorded : Prop :=
  ∀ (s : State) (f : Frame) (rest : List Input),
    s.cfg.legal = true → s.inputs = .command f :: rest → s.init = true →
    (decode f = .error .illegalOpcode →
      step s = .next { s with inputs := rest, errSticky := true, lastErr := 1#4, responses := s.responses ++ [[]] }) ∧
    (decode f = .error .badLength →
      step s = .next { s with inputs := rest, errSticky := true, lastErr := 2#4, responses := s.responses ++ [[]] })

/-- R806 and R650 before the first RESET: a frame that decodes to RESET completes it, any other frame is the model fault,
whatever it decodes to, and a firing event has no effect. -/
def Obligations.BeforeTheFirstReset : Prop :=
  ∀ s : State, s.cfg.legal = true → s.init = false →
    (∀ f rest, s.inputs = .command f :: rest → decode f = .ok .reset →
      ∃ t, step s = .next t ∧ t.init = true ∧ t.inputs = rest) ∧
    (∀ f rest, s.inputs = .command f :: rest → decode f ≠ .ok .reset → step s = .fault .notInitialised) ∧
    (∀ rest, s.inputs = .timer :: rest → step s = .next { s with inputs := rest })

/-- R650: a firing event is ignored before the first RESET, held as the one pending firing while the source is suspended,
and runs a firing otherwise. -/
def Obligations.TimerEventEffect : Prop :=
  ∀ (s : State) (rest : List Input), s.cfg.legal = true → s.inputs = .timer :: rest →
    (s.init = false → step s = .next { s with inputs := rest }) ∧
    (s.init = true → s.irqSuspended = true → step s = .next { s with inputs := rest, firePending := true }) ∧
    (s.init = true → s.irqSuspended = false → step s = .next (firing { s with inputs := rest }))

/-- R653: the dispatcher's turn delivers the pending firing when the pending step is enabled; a firing event taken meanwhile
leaves it pending; RESET discards it. -/
def Obligations.PendingFiringIsDelivered : Prop :=
  ∀ (s : State) (rest : List Input), s.cfg.legal = true → s.init = true → s.irqSuspended = false →
    s.firePending = true →
    (s.inputs = .pending :: rest →
      step s = .next (firing { s with inputs := rest, firePending := false })) ∧
    (s.inputs = .timer :: rest → ∃ t, step s = .next t ∧ t.firePending = true ∧ t.tickCount = s.tickCount + 1#32) ∧
    (∃ t, exec .reset s = .next t ∧ t.firePending = false)

/-- The model's choices where the spec leaves the step open (log 2, log 3, log 16): a turn of the dispatcher with no firing
enabled only uses up the turn, with no input to come the block stays as it is, and a configuration outside the ranges and
constraints of R8 is refused in every step, whatever would come next. The legal configurations are those of R8's table and
its constraints (a) and (c), written out; that a strobe table has a byte for each group (log 7) and an address parameter at
most P_BUS_ADDR_BITS bits (log 9) is how the model holds R8's types, and constraint (b) refuses nothing, since R8 lets such
an entry be inert (log 16). The derived quantities are R8's. -/
def Obligations.IdleTurnsAndIllegalConfigurations : Prop :=
  (∀ s : State,
    (s.cfg.legal = true → s.inputs = [] → step s = .next s) ∧
    (s.cfg.legal = true → ∀ rest, s.inputs = .pending :: rest →
      (s.init = false ∨ s.irqSuspended = true ∨ s.firePending = false) → step s = .next { s with inputs := rest }) ∧
    (s.cfg.legal = false → step s = .refused .illegalConfiguration)) ∧
  ∀ c : Config,
    (c.nsw = 8 * c.numSwGroups ∧ c.nlamp = 8 * c.numLampBanks ∧ c.nsolb = (c.numSolenoids + 7) / 8 ∧
      c.numSlots = c.displaySequence.length) ∧
    (c.legal = true ↔
      (2 ≤ c.swqCap ∧ c.swqCap ≤ 255) ∧ (2 ≤ c.solqCap ∧ c.solqCap ≤ 65535) ∧ (1 ≤ c.tsolCap ∧ c.tsolCap ≤ 255) ∧
      (2 ≤ c.sndqCap ∧ c.sndqCap ≤ 255) ∧ (1 ≤ c.tsndCap ∧ c.tsndCap ≤ 255) ∧
      1 ≤ c.udTimeout.toNat ∧ 1 ≤ c.flashUnitMs.toNat ∧ 1 ≤ c.dim1Reset.toNat ∧ 1 ≤ c.dim2Reset.toNat ∧
      (1 ≤ c.flashMin.toNat ∧ c.flashMin.toNat ≤ c.flashMax.toNat) ∧
      (c.flashMin.toNat ≤ c.flashAllPeriod.toNat ∧ c.flashAllPeriod.toNat ≤ c.flashMax.toNat) ∧
      (1 ≤ c.numSwGroups ∧ c.numSwGroups ≤ 8) ∧ c.swStrobeValue.length = c.numSwGroups ∧ c.swSelfTest.toNat ≤ 254 ∧
      c.priorityTable.length ≤ 255 ∧ (∀ e ∈ c.priorityTable, e.switchNumber.toNat < 0xFF) ∧
      (1 ≤ c.numSolenoids ∧ c.numSolenoids ≤ 32) ∧
      (∀ k, c.contAllowed.getLsbD k = true → k < c.numSolenoids) ∧
      (1 ≤ c.numLampBanks ∧ c.numLampBanks ≤ 32) ∧ (1 ≤ c.digits ∧ c.digits ≤ 8) ∧
      1 ≤ c.displaySequence.length ∧
      (∀ x ∈ c.displaySequence, (∀ d, x.owner = .primary d → x.k < c.digits) ∧
        (x.owner = .cred ∨ x.owner = .bip → x.k < 2)) ∧
      (1 ≤ c.busAddrBits ∧ c.busAddrBits ≤ 32) ∧
      (∀ a ∈ [c.swStrobeAddr, c.swReturnAddr, c.selfTestLine.addr, c.udLine.addr, c.solAddr, c.lampSelectAddr,
          c.lampDataAddr, c.dispSelectAddr, c.dispDataAddr, c.soundAddr], a.bits ≤ c.busAddrBits) ∧
      ∀ k : Fin 5, c.selfCheck[k].addr.bits ≤ c.busAddrBits)

/-- For every step: the trace only grows (R205), and afterwards each location of the model's `latched` holds the byte of the
last of the step's writes to it, or what it held before where the step writes none; each read uses up one draw, and no
write does (R204). The clauses are the model's choice: the block keeps no copy of what it writes, and `latched` is the
model's own record of what a device may keep (I16, R903; log 10), and the draws to come are the model's list, with an opaque
constant past its end (log 5). -/
def Obligations.BusMemoryFollowsTheTrace : Prop :=
  ∀ s t : State, step s = .next t → ∃ new : List Transaction,
    t.bus.trace = s.bus.trace ++ new ∧
    (∀ a v, lastWrite a new = some v → Memory.read t.bus.latched a = some v) ∧
    (∀ a, lastWrite a new = none → Memory.read t.bus.latched a = Memory.read s.bus.latched a) ∧
    ∀ k, drawAt t.bus k = drawAt s.bus (readCount new + k)

/-! ### Invariant and reset -/

/-- Every step keeps the invariant of R129, with the ranges of the indices and the lengths of the arrays; and clause (c):
every sound value that a step adds to the stack lies in the legal range of the state before the step, and what was there
stays but for entries taken from the front. -/
def Obligations.StepKeepsInvariant : Prop :=
  ∀ s t : State, s.Inv → step s = .next t → t.Inv ∧
    ∃ kept added, t.sndq.entries = kept ++ added ∧ kept <:+ s.sndq.entries ∧
      ∀ x ∈ added, s.sndLo.toNat ≤ x.toNat ∧ x.toNat ≤ s.sndHi.toNat

/-- The invariant of R129 holds right after a reset. -/
def Obligations.ResetStateHasInvariant : Prop :=
  State.reset.Inv

/-- R700 and R130: RESET sets every field to its reset value, issues no bus transaction, and keeps the parameters; STATUS
then reads 0x01. -/
def Obligations.ResetSetsEveryField : Prop :=
  decode { op := 0x00#8, rest := [] } = .ok .reset ∧
  ∀ s : State, ∃ t, exec .reset s = .next t ∧
    t.cfg = s.cfg ∧ t.inputs = s.inputs ∧ t.bus = s.bus ∧ t.responses = s.responses ++ [[]] ∧
    t.init = true ∧ t.irqSuspended = true ∧ t.firePending = false ∧ t.errSticky = false ∧ t.lastErr = 0#4 ∧
    t.phase = .A ∧ t.tickCount = 0#32 ∧ t.scanCount = 0#32 ∧ t.lampCycle = 0#32 ∧
    t.dimDiv1 = s.cfg.dim1Reset ∧ t.dimDiv2 = s.cfg.dim2Reset ∧ t.sndLo = 0#8 ∧ t.sndHi = 255#8 ∧
    t.solDisabled = false ∧ t.contMask = 0#32 ∧
    t.swNow = List.replicate s.cfg.numSwGroups 0#8 ∧ t.swM1 = List.replicate s.cfg.numSwGroups 0#8 ∧
    t.swM2 = List.replicate s.cfg.numSwGroups 0#8 ∧ t.selfTestLevel = false ∧
    t.swq = { buf := List.replicate s.cfg.swqCap 0#8, head := 0, tail := 0 } ∧
    t.solq = { buf := List.replicate s.cfg.solqCap 0#8, head := 0, tail := 0 } ∧
    t.sndq = { buf := List.replicate s.cfg.sndqCap 0#8, head := 0, tail := 0 } ∧
    t.tsol = List.replicate s.cfg.tsolCap { active := false, fireAt := 0#32, sol := 0#8, count := 0#8, ovr := false } ∧
    t.tsnd = List.replicate s.cfg.tsndCap { active := false, fireAt := 0#32, val := 0#8 } ∧
    t.lampState = List.replicate s.cfg.numLampBanks 0xFF#8 ∧ t.lampDim1 = List.replicate s.cfg.numLampBanks 0#8 ∧
    t.lampDim2 = List.replicate s.cfg.numLampBanks 0#8 ∧
    t.flashPeriod = List.replicate (8 * s.cfg.numLampBanks) 0#8 ∧ t.lampBank = 0 ∧
    (∀ d : Fin 5, t.displays[d] = { digits := List.replicate s.cfg.digits 0, mask := 0#8 }) ∧
    t.cred = { digit0 := 0, digit1 := 0, mask := 0#2 } ∧ t.bip = { digit0 := 0, digit1 := 0, mask := 0#2 } ∧
    t.dispPos = 0 ∧ t.udTimer = 0#8 ∧ t.udEvent = false ∧ statusByte t = 0x01#8

/-- What RESET leaves does not depend on any field of S before it (R700): two states with the same parameters, inputs, bus
and responses are reset to the same state. So nothing of the power-on state is seen (R900). -/
def Obligations.ResetForgetsTheState : Prop :=
  ∀ s s' : State, s.cfg = s'.cfg → s.inputs = s'.inputs → s.bus = s'.bus → s.responses = s'.responses →
    exec .reset s = exec .reset s'

/-! ### The dispatcher -/

/-- R652: a firing flips the phase, counts itself, and counts a scan in phase A. Every firing moves on to the next display
slot (R556); in phase A the lamp bank goes round and a whole sweep is counted (R501); in phase B the solenoid and the sound
queue each lose their first entry (R462, R605). It writes none of the timed entries, flash periods, ranges, divisors, error
fields or the suspension, nor what only commands write. -/
def Obligations.FiringCountsAndFrame : Prop :=
  ∀ s : State,
    (firing s).phase = (if s.phase = .A then .B else .A) ∧
    (firing s).tickCount = s.tickCount + 1#32 ∧
    (firing s).scanCount = (if s.phase = .A then s.scanCount + 1#32 else s.scanCount) ∧
    (s.phase = .B → (firing s).swNow = s.swNow ∧ (firing s).swM1 = s.swM1 ∧ (firing s).swM2 = s.swM2 ∧
      (firing s).swq = s.swq ∧ (firing s).selfTestLevel = s.selfTestLevel ∧ (firing s).lampBank = s.lampBank ∧
      (firing s).lampCycle = s.lampCycle) ∧
    (s.phase = .A → (firing s).sndq = s.sndq) ∧
    (s.dispPos < s.cfg.displaySequence.length →
      (firing s).dispPos = (s.dispPos + 1) % s.cfg.displaySequence.length) ∧
    (s.phase = .A → s.lampBank < s.cfg.numLampBanks →
      (firing s).lampBank = (s.lampBank + 1) % s.cfg.numLampBanks ∧
      (firing s).lampCycle = (if s.lampBank + 1 = s.cfg.numLampBanks then s.lampCycle + 1#32 else s.lampCycle)) ∧
    (s.phase = .B → s.solq.wf s.cfg.solqCap = true →
      (firing s).solq.wf s.cfg.solqCap = true ∧ (firing s).solq.entries = s.solq.entries.tail) ∧
    (s.phase = .B → s.sndq.wf s.cfg.sndqCap = true →
      (firing s).sndq.wf s.cfg.sndqCap = true ∧ (firing s).sndq.entries = s.sndq.entries.tail) ∧
    (firing s).tsol = s.tsol ∧ (firing s).tsnd = s.tsnd ∧ (firing s).flashPeriod = s.flashPeriod ∧
    (firing s).sndLo = s.sndLo ∧ (firing s).sndHi = s.sndHi ∧ (firing s).dimDiv1 = s.dimDiv1 ∧
    (firing s).dimDiv2 = s.dimDiv2 ∧ (firing s).errSticky = s.errSticky ∧ (firing s).lastErr = s.lastErr ∧
    (firing s).irqSuspended = s.irqSuspended ∧ (firing s).firePending = s.firePending ∧ (firing s).init = s.init ∧
    (firing s).solDisabled = s.solDisabled ∧ (firing s).contMask = s.contMask ∧
    (firing s).lampState = s.lampState ∧ (firing s).lampDim1 = s.lampDim1 ∧ (firing s).lampDim2 = s.lampDim2 ∧
    (firing s).displays = s.displays ∧ (firing s).cred = s.cred ∧ (firing s).bip = s.bip ∧
    (firing s).cfg = s.cfg ∧ (firing s).inputs = s.inputs ∧ (firing s).responses = s.responses

/-- R655: every firing appends exactly the listed transactions to the trace, in their order, with the bytes that the
procedures' rules give; their number and addresses depend on the phase and the parameters alone. Two points are the model's:
the addresses P_SOL_ADDR + i wrap at the top of the bus space (R10, R201; log 9), and the bytes read are the model's draws
(R204; log 5). -/
def Obligations.FiringTraceIsExact : Prop :=
  ∀ s : State, s.dispPos < s.cfg.numSlots → s.solq.wf s.cfg.solqCap = true → s.sndq.wf s.cfg.sndqCap = true →
    (firing s).bus.trace = s.bus.trace ++ firingTransactions s ∧
    (firingTransactions s).map Transaction.shape = firingShape s.cfg s.phase ∧
    (firingTransactions s).length =
      (if s.phase = .A then 6 + 2 * s.cfg.numSwGroups else 4 + (s.cfg.numSolenoids + 7) / 8)

/-- R654, for the procedure and for every firing, which ends with it: the up/down line is read once, in lock-out too; in
lock-out the timer counts down and the sample is ignored, otherwise an active sample (R13) latches and loads the timeout.
That the byte read is the draw after those of the firing's other reads is how the model holds draws (log 5). -/
def Obligations.UpDownLatch : Prop :=
  ∀ s : State,
    (upDownDebounce s).bus.trace = s.bus.trace ++ [.read s.cfg.udLine.addr.toNat (drawAt s.bus 0)] ∧
    (s.udTimer ≠ 0#8 → upDownDebounce s = { s with bus := (upDownDebounce s).bus, udTimer := s.udTimer - 1#8 }) ∧
    (s.udTimer = 0#8 →
      ((if s.cfg.udLine.activeLow then ~~~(drawAt s.bus 0) else drawAt s.bus 0) &&& s.cfg.udLine.mask) ≠ 0#8 →
      upDownDebounce s =
        { s with bus := (upDownDebounce s).bus, udEvent := true, udTimer := s.cfg.udTimeout }) ∧
    (s.udTimer = 0#8 →
      ((if s.cfg.udLine.activeLow then ~~~(drawAt s.bus 0) else drawAt s.bus 0) &&& s.cfg.udLine.mask) = 0#8 →
      upDownDebounce s = { s with bus := (upDownDebounce s).bus }) ∧
    ∃ (v : Byte) (before : List Transaction),
      v = drawAt s.bus (if s.phase = .A then s.cfg.numSwGroups + 1 else 0) ∧
      (firing s).bus.trace = s.bus.trace ++ before ++ [.read s.cfg.udLine.addr.toNat v] ∧
      (s.udTimer ≠ 0#8 → (firing s).udTimer = s.udTimer - 1#8 ∧ (firing s).udEvent = s.udEvent) ∧
      (s.udTimer = 0#8 → ((if s.cfg.udLine.activeLow then ~~~v else v) &&& s.cfg.udLine.mask) ≠ 0#8 →
        (firing s).udTimer = s.cfg.udTimeout ∧ (firing s).udEvent = true) ∧
      (s.udTimer = 0#8 → ((if s.cfg.udLine.activeLow then ~~~v else v) &&& s.cfg.udLine.mask) = 0#8 →
        (firing s).udTimer = 0#8 ∧ (firing s).udEvent = s.udEvent)

/-! ### Whole-machine rules -/

/-- R103: only RESET clears the sticky error. -/
def Obligations.OnlyResetClearsTheError : Prop :=
  ∀ s t : State, step s = .next t → s.errSticky = true →
    t.errSticky = true ∨ ∃ f rest, s.inputs = .command f :: rest ∧ decode f = .ok .reset

/-- R212: of the commands only SELF_CHECK issues bus transactions: every other command leaves the trace, every byte last
written at every location, and the draws to come as they were. -/
def Obligations.CommandsLeaveTheBusAlone : Prop :=
  ∀ (i : Instr) (s t : State), i ≠ .selfCheck → exec i s = .next t →
    t.bus = s.bus ∧ ∀ a : Nat, Memory.read t.bus.latched a = Memory.read s.bus.latched a

/-- R213: while the source is suspended no step but a RESET or an IRQ_RESUME ends the suspension, and no firing runs: the
firings are not counted on and the phase stays, and a firing event is held. -/
def Obligations.SuspensionHoldsFirings : Prop :=
  ∀ s t : State, step s = .next t → s.init = true → s.irqSuspended = true →
    (∀ f rest, s.inputs = .command f :: rest → decode f ≠ .ok .irqResume ∧ decode f ≠ .ok .reset) →
    t.irqSuspended = true ∧ t.tickCount = s.tickCount ∧ t.phase = s.phase ∧
      (s.firePending = true → t.firePending = true) ∧ (∀ rest, s.inputs = .timer :: rest → t.firePending = true)

/-- R304: a command that completes answers as many bytes as its row says; only a refused SELF_CHECK answers none in place of
one. That each command adds one entry to a log, empty for zero bytes, is the model's choice (log 11). -/
def Obligations.ResponseLengths : Prop :=
  ∀ (i : Instr) (s t : State), exec i s = .next t →
    ∃ r, t.responses = s.responses ++ [r] ∧
      (if i = .selfCheck ∧ s.irqSuspended = false then r = [] else r.length = i.mnemonic.responseLength)

/-- R452: no command but RESET takes an entry out of the pulsed stack: what was queued stays queued, in its order. -/
def Obligations.QueuedPulsesStay : Prop :=
  ∀ (i : Instr) (s t : State), i ≠ .reset → s.solq.wf s.cfg.solqCap = true → exec i s = .next t →
    ∃ before after, t.solq.entries = before ++ s.solq.entries ++ after

/-! ### Control commands -/

/-- R701: SELF_CHECK writes and reads back the five patterns in order, answers the mask of the readbacks that differ, leaves
each pattern where it was last written, and changes nothing else; while the source is not suspended it is refused without a transaction. -/
def Obligations.SelfCheckEffect : Prop :=
  decode { op := 0x01#8, rest := [] } = .ok .selfCheck ∧
  ∀ s : State, s.init = true →
    (s.irqSuspended = true → ∃ t m, exec .selfCheck s = .next t ∧
      t = { s with bus := t.bus, responses := s.responses ++ [[m]] } ∧
      t.bus.trace = s.bus.trace ++ (List.finRange 5).flatMap (fun k =>
        [.write s.cfg.selfCheck[k].addr.toNat s.cfg.selfCheck[k].pat,
         .read s.cfg.selfCheck[k].addr.toNat (drawAt s.bus k.val)]) ∧
      (∀ k : Fin 5, m.getLsbD k.val = (drawAt s.bus k.val != s.cfg.selfCheck[k].pat)) ∧
      (∀ k, 5 ≤ k → m.getLsbD k = false) ∧
      (∀ k : Fin 5, (∀ j : Fin 5, k < j → s.cfg.selfCheck[j].addr.toNat ≠ s.cfg.selfCheck[k].addr.toNat) →
        Memory.read t.bus.latched s.cfg.selfCheck[k].addr.toNat = some s.cfg.selfCheck[k].pat) ∧
      (∀ a, (∀ k : Fin 5, s.cfg.selfCheck[k].addr.toNat ≠ a) →
        Memory.read t.bus.latched a = Memory.read s.bus.latched a)) ∧
    (s.irqSuspended = false →
      exec .selfCheck s = .next { s with errSticky := true, lastErr := 3#4, responses := s.responses ++ [[]] })

/-- R702 and R703: IRQ_SUSPEND sets the suspension and IRQ_RESUME ends it, and neither does anything else: no nesting is
counted, a pending firing stays pending, and after IRQ_RESUME it is enabled and not yet run. -/
def Obligations.IrqSuspendAndResumeEffect : Prop :=
  decode { op := 0x02#8, rest := [] } = .ok .irqSuspend ∧ decode { op := 0x03#8, rest := [] } = .ok .irqResume ∧
  ∀ s : State, s.init = true →
    (∃ t, exec .irqSuspend s = .next t ∧ t = { s with irqSuspended := true, responses := s.responses ++ [[]] } ∧
      (statusByte t).getLsbD 0 = true) ∧
    (∃ t, exec .irqResume s = .next t ∧ t = { s with irqSuspended := false, responses := s.responses ++ [[]] } ∧
      (statusByte t).getLsbD 0 = false ∧ (s.firePending = true → pendingEnabled t = true))

/-- R704, R456, R603 and R505: UPDATE frees exactly the slots that are due, sets exactly the State bits of flashing lamps to
their phase at the given time, and touches nothing else but the two queues. -/
def Obligations.UpdateFreesSlotsAndFlashes : Prop :=
  ∀ (s : State) (t : U32), s.init = true → s.tsol.length = s.cfg.tsolCap → s.tsnd.length = s.cfg.tsndCap →
    s.lampState.length = s.cfg.numLampBanks →
    ∃ r, exec (.update t) s = .next r ∧
      r = { s with tsol := r.tsol, solq := r.solq, tsnd := r.tsnd, sndq := r.sndq, lampState := r.lampState,
                   responses := s.responses ++ [[]] } ∧
      r.tsol = s.tsol.map (fun e => if e.active ∧ e.fireAt.toNat ≤ t.toNat then { e with active := false } else e) ∧
      r.tsnd = s.tsnd.map (fun e => if e.active ∧ e.fireAt.toNat ≤ t.toNat then { e with active := false } else e) ∧
      r.lampState.length = s.cfg.numLampBanks ∧
      ∀ l < s.cfg.nlamp, bankBit r.lampState l =
        if s.flashPeriod.getD l 0#8 = 0#8 then bankBit s.lampState l
        else t.toNat / ((s.flashPeriod.getD l 0#8).toNat * s.cfg.flashUnitMs.toNat) % 2 != 1

/-- R704, R456 and R603: UPDATE queues the pulses and the sound values of the due slots in slot order, behind what is queued,
as far as the rings hold them. -/
def Obligations.UpdateQueuesDueEntries : Prop :=
  ∀ (s : State) (t : U32), s.init = true → s.tsol.length = s.cfg.tsolCap → s.tsnd.length = s.cfg.tsndCap →
    s.solq.wf s.cfg.solqCap = true → s.sndq.wf s.cfg.sndqCap = true →
    ∃ r, exec (.update t) s = .next r ∧
      r.solq.entries = (s.solq.entries ++ duePulses t s).take (s.cfg.solqCap - 1) ∧
      r.sndq.entries = (s.sndq.entries ++ dueSounds t s).take (s.cfg.sndqCap - 1)

/-- A timed entry fires exactly once (R456, R603, R704). After an UPDATE at `t`: a second one at a time not after `t` changes
no slot and queues nothing; a second one at any time queues only the entries that were not due at `t`, so that a slot freed
at `t` adds nothing; and no step but a registration makes a free slot active. -/
def Obligations.TimedEntriesFireOnce : Prop :=
  (∀ (s r r' : State) (t t' : U32), s.tsol.length = s.cfg.tsolCap → s.tsnd.length = s.cfg.tsndCap →
    exec (.update t) s = .next r → exec (.update t') r = .next r' →
    (t'.toNat ≤ t.toNat → r'.tsol = r.tsol ∧ r'.tsnd = r.tsnd ∧ r'.solq = r.solq ∧ r'.sndq = r.sndq) ∧
    (s.solq.wf s.cfg.solqCap = true → r'.solq.entries = (r.solq.entries ++
      (s.tsol.filter fun e => e.active && t.toNat < e.fireAt.toNat && e.fireAt.toNat ≤ t'.toNat &&
        e.sol.toNat < s.cfg.numSolenoids && (e.ovr || !s.solDisabled)).flatMap
          fun e => List.replicate e.count.toNat e.sol).take (s.cfg.solqCap - 1)) ∧
    (s.sndq.wf s.cfg.sndqCap = true → r'.sndq.entries = (r.sndq.entries ++
      (s.tsnd.filter fun e => e.active && t.toNat < e.fireAt.toNat && e.fireAt.toNat ≤ t'.toNat &&
        s.sndLo.toNat ≤ e.val.toNat && e.val.toNat ≤ s.sndHi.toNat).map TimedSnd.val).take (s.cfg.sndqCap - 1))) ∧
  ∀ s r : State, step s = .next r →
    ((∀ f rest a b u c, s.inputs = .command f :: rest → decode f ≠ .ok (.pushTimed a b u c)) →
      ∀ (i : Nat) (e e' : TimedSol), s.tsol[i]? = some e → e.active = false →
        r.tsol[i]? = some e' → e'.active = false) ∧
    ((∀ f rest a u, s.inputs = .command f :: rest → decode f ≠ .ok (.pushTimedSound a u)) →
      ∀ (i : Nat) (e e' : TimedSnd), s.tsnd[i]? = some e → e.active = false →
        r.tsnd[i]? = some e' → e'.active = false)

/-- R705 and R104: READ_STATUS answers the STATUS byte, bit for bit, and changes nothing. -/
def Obligations.ReadStatusEffect : Prop :=
  decode { op := 0x05#8, rest := [] } = .ok .readStatus ∧
  ∀ s : State, s.init = true → ∃ b : Byte,
    exec .readStatus s = .next { s with responses := s.responses ++ [[b]] } ∧ b = statusByte s ∧
    b.getLsbD 0 = s.irqSuspended ∧ b.getLsbD 1 = s.firePending ∧ b.getLsbD 2 = s.solDisabled ∧
    b.getLsbD 3 = s.errSticky ∧ ∀ k < 4, b.getLsbD (4 + k) = s.lastErr.getLsbD k

/-- R706: READ_UPDOWN answers the latch and clears it, and leaves the lock-out timer. -/
def Obligations.ReadUpdownEffect : Prop :=
  decode { op := 0x06#8, rest := [] } = .ok .readUpdown ∧
  ∀ s : State, s.init = true →
    exec .readUpdown s =
      .next { s with udEvent := false, responses := s.responses ++ [[if s.udEvent then 1#8 else 0#8]] }

/-! ### Switches -/

/-- R411: PULL_EVENT takes the oldest event; on an empty queue it answers 0xFF and changes nothing. What a ring holds is read
off it as R124 lays it out: (tail − head + CAP) mod CAP entries, from the head on. -/
def Obligations.PullEventEffect : Prop :=
  (∀ (q : Ring) (cap : Nat), q.wf cap = true ↔ q.buf.length = cap ∧ q.head < cap ∧ q.tail < cap) ∧
  (∀ q : Ring, q.entries = (List.range ((q.tail + q.buf.length - q.head) % q.buf.length)).map fun k =>
    q.buf.getD ((q.head + k) % q.buf.length) 0#8) ∧
  decode { op := 0x10#8, rest := [] } = .ok .pullEvent ∧
  ∀ s : State, s.init = true → s.swq.wf s.cfg.swqCap = true →
    (s.swq.entries = [] → exec .pullEvent s = .next { s with responses := s.responses ++ [[0xFF#8]] }) ∧
    (∀ x xs, s.swq.entries = x :: xs → ∃ q : Ring, q.wf s.cfg.swqCap = true ∧ q.entries = xs ∧
      exec .pullEvent s = .next { s with swq := q, responses := s.responses ++ [[x]] })

/-- R412: READ_LEVEL answers the Now bit of a matrix switch, the level of the self-test line for its number when that is no
matrix switch, and 0 for any other number. -/
def Obligations.ReadLevelEffect : Prop :=
  (∀ a : Byte, decode { op := 0x11#8, rest := [a] } = .ok (.readLevel a)) ∧
  ∀ (s : State) (a : Byte), s.init = true → ∃ v : Bool,
    exec (.readLevel a) s = .next { s with responses := s.responses ++ [[if v then 1#8 else 0#8]] } ∧
    (a.toNat < 8 * s.cfg.numSwGroups → v = (s.swNow.getD (a.toNat / 8) 0#8).getLsbD (a.toNat % 8)) ∧
    (8 * s.cfg.numSwGroups ≤ a.toNat → a = s.cfg.swSelfTest → v = s.selfTestLevel) ∧
    (8 * s.cfg.numSwGroups ≤ a.toNat → a ≠ s.cfg.swSelfTest → v = false)

/-- R401: a switch number is queued behind the others, but the self-test number is not queued when it is the oldest entry,
and a full queue drops the number; only the queue is written. -/
def Obligations.SwitchPushEffect : Prop :=
  ∀ (s : State) (n : Byte), s.swq.wf s.cfg.swqCap = true →
    swqPush n s = { s with swq := (swqPush n s).swq } ∧ (swqPush n s).swq.wf s.cfg.swqCap = true ∧
    (n = s.cfg.swSelfTest ∧ s.swq.entries.head? = some n → swqPush n s = s) ∧
    (s.swq.entries.length = s.cfg.swqCap - 1 → swqPush n s = s) ∧
    (¬ (n = s.cfg.swSelfTest ∧ s.swq.entries.head? = some n) → s.swq.entries.length < s.cfg.swqCap - 1 →
      (swqPush n s).swq.entries = s.swq.entries ++ [n])

/-- R402 within a firing of phase A: each group's history moves on by one and its Now is the sample of its own read, the
reads following that of the self-test line, whose level is R13's of the first read (R406). That the byte of each read is
the draw of its number is how the model holds draws (log 5). -/
def Obligations.ScanPassSamplesEveryGroup : Prop :=
  ∀ s : State, s.phase = .A → s.swNow.length = s.cfg.numSwGroups → s.swM1.length = s.cfg.numSwGroups →
    s.swM2.length = s.cfg.numSwGroups →
    (firing s).swM2 = s.swM1 ∧ (firing s).swM1 = s.swNow ∧
    (firing s).swNow = (List.range s.cfg.numSwGroups).map (fun g =>
      if s.cfg.swActiveLow then ~~~(drawAt s.bus (g + 1)) else drawAt s.bus (g + 1)) ∧
    (firing s).selfTestLevel =
      (((if s.cfg.selfTestLine.activeLow then ~~~(drawAt s.bus 0) else drawAt s.bus 0) &&& s.cfg.selfTestLine.mask)
        != 0#8)

/-- R401, R403, R404, R406 and R407 within a firing of phase A: first the self-test number if its line is active, then exactly
the switches whose samples read open, closed, closed, in ascending order, are pushed one after another; a push of the
self-test number adds nothing when that is the oldest entry, and a full ring drops what is pushed. For a self-test number
outside the matrix that comes to the queue, the self-test number where it is added, then those switches, cut at what the
ring holds. -/
def Obligations.ValidatedClosuresAreQueued : Prop :=
  ∀ s : State, s.phase = .A → s.swq.wf s.cfg.swqCap = true → ∃ active : Bool,
    active = (((if s.cfg.selfTestLine.activeLow then ~~~(drawAt s.bus 0) else drawAt s.bus 0) &&&
      s.cfg.selfTestLine.mask) != 0#8) ∧
    (firing s).swq.wf s.cfg.swqCap = true ∧
    (firing s).swq.entries =
      ((if active then [s.cfg.swSelfTest] else []) ++ (validatedSwitches (firing s)).map (BitVec.ofNat 8)).foldl
        (fun es n => if n = s.cfg.swSelfTest ∧ es.head? = some n then es else (es ++ [n]).take (s.cfg.swqCap - 1))
        s.swq.entries ∧
    (8 * s.cfg.numSwGroups ≤ s.cfg.swSelfTest.toNat →
      (firing s).swq.entries =
        (s.swq.entries ++
          (if active = true ∧ s.swq.entries.head? ≠ some s.cfg.swSelfTest then [s.cfg.swSelfTest] else []) ++
          (validatedSwitches (firing s)).map (BitVec.ofNat 8)).take (s.cfg.swqCap - 1))

/-- R405, R454 and R457 within a firing of phase A: each table entry, in list order, whose switch exists and is at its first
closed sample puts its pulses before all that is queued, unless its solenoid does not exist or solenoids are disabled. -/
def Obligations.PriorityPathFronts : Prop :=
  ∀ s : State, s.phase = .A → s.solq.wf s.cfg.solqCap = true →
    (firing s).solq.wf s.cfg.solqCap = true ∧
    (firing s).solq.entries = s.cfg.priorityTable.foldl (fun es e =>
      if e.switchNumber.toNat < s.cfg.nsw ∧ bankBit (firing s).swNow e.switchNumber.toNat = true ∧
          bankBit (firing s).swM1 e.switchNumber.toNat = false ∧
          e.solenoidNumber.toNat < s.cfg.numSolenoids ∧ s.solDisabled = false
      then List.replicate (min e.holdTicks.toNat (s.cfg.solqCap - 1 - es.length)) e.solenoidNumber ++ es
      else es) s.solq.entries

/-! ### Solenoids -/

/-- R453: PUSH_PULSED appends the copies that fit, unless the id does not exist or the gate stops it. -/
def Obligations.PushPulsedEffect : Prop :=
  (∀ a b c : Byte, decode { op := 0x20#8, rest := [a, b, c] } = .ok (.pushPulsed a b c)) ∧
  ∀ (s : State) (a b c : Byte), s.init = true → s.solq.wf s.cfg.solqCap = true →
    ∃ q : Ring, exec (.pushPulsed a b c) s = .next { s with solq := q, responses := s.responses ++ [[]] } ∧
      q.wf s.cfg.solqCap = true ∧
      (s.cfg.numSolenoids ≤ a.toNat ∨ (s.solDisabled = true ∧ c = 0#8) → q = s.solq) ∧
      (a.toNat < s.cfg.numSolenoids → (s.solDisabled = false ∨ c ≠ 0#8) →
        q.entries = (s.solq.entries ++ List.replicate b.toNat a).take (s.cfg.solqCap - 1))

/-- R454: PUSH_PRIORITY puts the copies that fit before all that is queued, unless the id does not exist or solenoids are
disabled. -/
def Obligations.PushPriorityEffect : Prop :=
  (∀ a b : Byte, decode { op := 0x21#8, rest := [a, b] } = .ok (.pushPriority a b)) ∧
  ∀ (s : State) (a b : Byte), s.init = true → s.solq.wf s.cfg.solqCap = true →
    ∃ q : Ring, exec (.pushPriority a b) s = .next { s with solq := q, responses := s.responses ++ [[]] } ∧
      q.wf s.cfg.solqCap = true ∧
      (s.cfg.numSolenoids ≤ a.toNat ∨ s.solDisabled = true → q = s.solq) ∧
      (a.toNat < s.cfg.numSolenoids → s.solDisabled = false →
        q.entries = List.replicate (min b.toNat (s.cfg.solqCap - 1 - s.solq.entries.length)) a ++ s.solq.entries)

/-- R455: PUSH_TIMED claims the lowest free slot and answers 1; an id that does not exist, or no free slot, answers 0 and
changes nothing. The disable gate is not tested. -/
def Obligations.PushTimedEffect : Prop :=
  (∀ a b t0 t1 t2 t3 c : Byte, decode { op := 0x22#8, rest := [a, b, t0, t1, t2, t3, c] } =
    .ok (.pushTimed a b (t3 ++ t2 ++ t1 ++ t0) c)) ∧
  ∀ (s : State) (a b : Byte) (t : U32) (c : Byte), s.init = true →
    (s.cfg.numSolenoids ≤ a.toNat ∨ (∀ e ∈ s.tsol, e.active = true) →
      exec (.pushTimed a b t c) s = .next { s with responses := s.responses ++ [[0#8]] }) ∧
    (a.toNat < s.cfg.numSolenoids → ∀ taken e free, s.tsol = taken ++ e :: free → (∀ x ∈ taken, x.active = true) →
      e.active = false →
      exec (.pushTimed a b t c) s = .next { s with
        tsol := taken ++ { active := true, fireAt := t, sol := a, count := b, ovr := c != 0#8 } :: free
        responses := s.responses ++ [[1#8]] })

/-- R458: SET_CONTINUOUS writes the one bit of an allowed id and nothing else. -/
def Obligations.SetContinuousEffect : Prop :=
  (∀ a b : Byte, decode { op := 0x23#8, rest := [a, b] } = .ok (.setContinuous a b)) ∧
  ∀ (s : State) (a b : Byte), s.init = true → ∃ m : U32,
    exec (.setContinuous a b) s = .next { s with contMask := m, responses := s.responses ++ [[]] } ∧
    ∀ k, m.getLsbD k =
      if k = a.toNat ∧ a.toNat < s.cfg.numSolenoids ∧ a.toNat < 32 ∧ s.cfg.contAllowed.getLsbD a.toNat = true
      then b != 0#8 else s.contMask.getLsbD k

/-- R459 and R460: SOL_DISABLE sets the gate and SOL_ENABLE clears it, and neither does anything else; STATUS bit 2 shows
it. -/
def Obligations.SolGateEffect : Prop :=
  decode { op := 0x24#8, rest := [] } = .ok .solDisable ∧ decode { op := 0x25#8, rest := [] } = .ok .solEnable ∧
  ∀ s : State, s.init = true →
    (∃ t, exec .solDisable s = .next t ∧ t = { s with solDisabled := true, responses := s.responses ++ [[]] } ∧
      (statusByte t).getLsbD 2 = true) ∧
    (∃ t, exec .solEnable s = .next t ∧ t = { s with solDisabled := false, responses := s.responses ++ [[]] } ∧
      (statusByte t).getLsbD 2 = false)

/-- R461: READ_CONT_MASK answers the four bytes of the mask, the low one first, and changes nothing. -/
def Obligations.ReadContMaskEffect : Prop :=
  decode { op := 0x26#8, rest := [] } = .ok .readContMask ∧
  ∀ s : State, s.init = true → ∃ b0 b1 b2 b3 : Byte,
    exec .readContMask s = .next { s with responses := s.responses ++ [[b0, b1, b2, b3]] } ∧
    b3 ++ b2 ++ b1 ++ b0 = s.contMask

/-- R462: an actuate pass takes the first queued pulse and writes the mask with that solenoid's bit, byte by byte, the low
byte first; nothing else changes. That the address P_SOL_ADDR + i wraps at the top of the bus space (R10, R201) is the
model's inference, log 9. -/
def Obligations.SolenoidActuation : Prop :=
  ∀ s : State, s.solq.wf s.cfg.solqCap = true → ∃ pat : U32, pat = solPattern s.contMask s.solq.entries.head? ∧
    solenoidActuate s = { s with solq := (solenoidActuate s).solq, bus := (solenoidActuate s).bus } ∧
    (solenoidActuate s).solq.wf s.cfg.solqCap = true ∧
    (solenoidActuate s).solq.entries = s.solq.entries.tail ∧
    (∀ k < 32, pat.getLsbD k =
      (s.contMask.getLsbD k || (s.solq.entries.head?.any fun x => x.toNat == k))) ∧
    (solenoidActuate s).bus.trace = s.bus.trace ++ (List.range ((s.cfg.numSolenoids + 7) / 8)).map (fun i =>
      .write ((s.cfg.solAddr.toNat + i) % 2 ^ s.cfg.busAddrBits) (pat.extractLsb' (8 * i) 8))

/-! ### Lamps -/

/-- R501 and R502: a strobe writes the bank's index, then its byte, in which a lamp is off when its State bit says so or an
overlay of it applies; the bank index goes round, and a whole sweep is counted. -/
def Obligations.LampStrobeEffect : Prop :=
  ∀ s : State, 0 < s.cfg.numLampBanks → s.lampBank < s.cfg.numLampBanks →
    ∃ (v : Byte) (c : Nat), v = lampData s s.lampBank ∧
      c = (match s.cfg.dimCounter with
        | .lampCycle => s.lampCycle.toNat
        | .scanPass => s.scanCount.toNat
        | .firing => s.tickCount.toNat) ∧
      (∀ k < 8, v.getLsbD k =
        (bankBit s.lampState (8 * s.lampBank + k) ||
          (c % s.dimDiv1.toNat != 0 && bankBit s.lampDim1 (8 * s.lampBank + k)) ||
          (c % s.dimDiv2.toNat != 0 && bankBit s.lampDim2 (8 * s.lampBank + k)))) ∧
      (lampStrobe s).bus.trace = s.bus.trace ++
        [.write s.cfg.lampSelectAddr.toNat (BitVec.ofNat 8 s.lampBank), .write s.cfg.lampDataAddr.toNat v] ∧
      lampStrobe s = { s with
        bus := (lampStrobe s).bus
        lampBank := (s.lampBank + 1) % s.cfg.numLampBanks
        lampCycle := if s.lampBank + 1 = s.cfg.numLampBanks then s.lampCycle + 1#32 else s.lampCycle }

/-- R504: a period in milliseconds is stored as whole units, rounded toward zero and clamped; 0 means steady. -/
def Obligations.FlashUnitsRule : Prop :=
  ∀ (c : Config) (ms : U16),
    (ms = 0#16 → flashUnits c ms = 0#8) ∧
    (ms ≠ 0#16 → (flashUnits c ms).toNat =
      min (max (ms.toNat / c.flashUnitMs.toNat) c.flashMin.toNat) c.flashMax.toNat)

/-- R510: SET_LAMP writes the State bit, the dim bits and the flash period of its lamp and of no other; an id out of range or
a dim level above 2 writes nothing. The bit of lamp `n` is bit `n mod 8` of byte `n / 8` (R500). -/
def Obligations.SetLampEffect : Prop :=
  (∀ (bank : List Byte) (n : Nat), bankBit bank n = (bank.getD (n / 8) 0#8).getLsbD (n % 8)) ∧
  (∀ a b c m0 m1 : Byte, decode { op := 0x30#8, rest := [a, b, c, m0, m1] } = .ok (.setLamp a b c (m1 ++ m0))) ∧
  ∀ (s : State) (a b c : Byte) (m : U16), s.init = true →
    s.lampState.length = s.cfg.numLampBanks → s.lampDim1.length = s.cfg.numLampBanks →
    s.lampDim2.length = s.cfg.numLampBanks → s.flashPeriod.length = s.cfg.nlamp →
    ∃ t, exec (.setLamp a b c m) s = .next t ∧
      t = { s with lampState := t.lampState, lampDim1 := t.lampDim1, lampDim2 := t.lampDim2,
                   flashPeriod := t.flashPeriod, responses := s.responses ++ [[]] } ∧
      (s.cfg.nlamp ≤ a.toNat ∨ 2 < c.toNat → t = { s with responses := s.responses ++ [[]] }) ∧
      (a.toNat < s.cfg.nlamp → c.toNat ≤ 2 →
        t.flashPeriod = s.flashPeriod.set a.toNat (flashUnits s.cfg m) ∧
        ∀ l < s.cfg.nlamp,
          bankBit t.lampState l = (if l = a.toNat then b == 0#8 else bankBit s.lampState l) ∧
          bankBit t.lampDim1 l = (if l = a.toNat then c == 1#8 else bankBit s.lampDim1 l) ∧
          bankBit t.lampDim2 l = (if l = a.toNat then c == 2#8 else bankBit s.lampDim2 l))

/-- R511, R512 and R513: the lamp reads answer the stored State (1 = on), the two dim bits, and the stored flash period of an
existing lamp, and 0 for any other id; they change nothing. -/
def Obligations.LampReadsEffect : Prop :=
  (∀ a : Byte, decode { op := 0x31#8, rest := [a] } = .ok (.readLampState a) ∧
    decode { op := 0x32#8, rest := [a] } = .ok (.readLampDim a) ∧
    decode { op := 0x33#8, rest := [a] } = .ok (.readLampFlash a)) ∧
  ∀ (s : State) (a : Byte), s.init = true → ∃ r1 r2 r3 : Byte,
    exec (.readLampState a) s = .next { s with responses := s.responses ++ [[r1]] } ∧
    exec (.readLampDim a) s = .next { s with responses := s.responses ++ [[r2]] } ∧
    exec (.readLampFlash a) s = .next { s with responses := s.responses ++ [[r3]] } ∧
    (s.cfg.nlamp ≤ a.toNat → r1 = 0#8 ∧ r2 = 0#8 ∧ r3 = 0#8) ∧
    (a.toNat < s.cfg.nlamp →
      r1 = (if bankBit s.lampState a.toNat then 0#8 else 1#8) ∧
      r2.getLsbD 0 = bankBit s.lampDim1 a.toNat ∧ r2.getLsbD 1 = bankBit s.lampDim2 a.toNat ∧ r2.toNat < 4 ∧
      r3 = s.flashPeriod.getD a.toNat 0#8)

/-- R514: LAMPS_OFF_ALL turns every lamp off and clears every dim bit and flash period, and does nothing else. -/
def Obligations.LampsOffAllEffect : Prop :=
  decode { op := 0x34#8, rest := [] } = .ok .lampsOffAll ∧
  ∀ s : State, s.init = true → s.lampState.length = s.cfg.numLampBanks → s.lampDim1.length = s.cfg.numLampBanks →
    s.lampDim2.length = s.cfg.numLampBanks → s.flashPeriod.length = s.cfg.nlamp →
    exec .lampsOffAll s = .next { s with
      lampState := List.replicate s.cfg.numLampBanks 0xFF#8
      lampDim1 := List.replicate s.cfg.numLampBanks 0#8
      lampDim2 := List.replicate s.cfg.numLampBanks 0#8
      flashPeriod := List.replicate s.cfg.nlamp 0#8
      responses := s.responses ++ [[]] }

/-- R515: FLASH_ALL gives every lamp the period P_FLASH_ALL_PERIOD, clears the dim bits, and sets every State bit to the phase
at the given time; nothing else changes. -/
def Obligations.FlashAllEffect : Prop :=
  (∀ t0 t1 t2 t3 : Byte, decode { op := 0x35#8, rest := [t0, t1, t2, t3] } =
    .ok (.flashAll (t3 ++ t2 ++ t1 ++ t0))) ∧
  ∀ (s : State) (t : U32), s.init = true → s.cfg.legal = true →
    s.lampState.length = s.cfg.numLampBanks → s.lampDim1.length = s.cfg.numLampBanks →
    s.lampDim2.length = s.cfg.numLampBanks → s.flashPeriod.length = s.cfg.nlamp →
    ∃ r, exec (.flashAll t) s = .next r ∧
      r = { s with lampState := r.lampState, lampDim1 := List.replicate s.cfg.numLampBanks 0#8,
                   lampDim2 := List.replicate s.cfg.numLampBanks 0#8,
                   flashPeriod := List.replicate s.cfg.nlamp s.cfg.flashAllPeriod,
                   responses := s.responses ++ [[]] } ∧
      r.lampState.length = s.cfg.numLampBanks ∧
      ∀ l < s.cfg.nlamp, bankBit r.lampState l =
        (t.toNat / (s.cfg.flashAllPeriod.toNat * s.cfg.flashUnitMs.toNat) % 2 != 1)

/-- R516: SET_DIM_DIVISORS stores both divisors, and nothing at all when one is 0. -/
def Obligations.SetDimDivisorsEffect : Prop :=
  (∀ a b : Byte, decode { op := 0x36#8, rest := [a, b] } = .ok (.setDimDivisors a b)) ∧
  ∀ (s : State) (a b : Byte), s.init = true →
    (a = 0#8 ∨ b = 0#8 → exec (.setDimDivisors a b) s = .next { s with responses := s.responses ++ [[]] }) ∧
    (a ≠ 0#8 → b ≠ 0#8 → exec (.setDimDivisors a b) s =
      .next { s with dimDiv1 := a, dimDiv2 := b, responses := s.responses ++ [[]] })

/-! ### Displays -/

/-- R551: SET_DIGITS stores the decimal digits of the value, position 0 the least significant, and with blanking the mask of
R552; the other displays and everything else stay, and an index of 5 or more changes nothing. -/
def Obligations.SetDigitsEffect : Prop :=
  (∀ a v0 v1 v2 v3 b c : Byte, decode { op := 0x40#8, rest := [a, v0, v1, v2, v3, b, c] } =
    .ok (.setDigits a (v3 ++ v2 ++ v1 ++ v0) b c)) ∧
  ∀ (s : State) (a : Byte) (v : U32) (b c : Byte), s.init = true →
    ∃ t, exec (.setDigits a v b c) s = .next t ∧
      t = { s with displays := t.displays, responses := s.responses ++ [[]] } ∧
      ∀ d : Fin 5,
        (d.val ≠ a.toNat → t.displays[d] = s.displays[d]) ∧
        (d.val = a.toNat →
          t.displays[d].digits.length = s.cfg.digits ∧
          (∀ k < s.cfg.digits, (t.displays[d].digits.getD k 0).val = v.toNat / 10 ^ k % 10) ∧
          t.displays[d].mask = if b = 0#8 then s.displays[d].mask else magMask s.cfg v c)

/-- R552: the mask shows the low positions: as many as the value has decimal digits, or `minDigits` if that is more, and at
most P_DIGITS. -/
def Obligations.MagMaskRule : Prop :=
  ∀ (c : Config) (v : U32) (m : Byte), c.digits ≤ 8 →
    ∃ n, 1 ≤ n ∧ n ≤ 10 ∧ v.toNat < 10 ^ n ∧ (n = 1 ∨ 10 ^ (n - 1) ≤ v.toNat) ∧
      ∀ k < 8, (magMask c v m).getLsbD k = decide (k < min c.digits (max n m.toNat))

/-- R553: SET_BLANK_MASK stores the mask without the bits at and above P_DIGITS; an index of 5 or more changes nothing. -/
def Obligations.SetBlankMaskEffect : Prop :=
  (∀ a b : Byte, decode { op := 0x41#8, rest := [a, b] } = .ok (.setBlankMask a b)) ∧
  ∀ (s : State) (a b : Byte), s.init = true → s.cfg.digits ≤ 8 →
    ∃ t, exec (.setBlankMask a b) s = .next t ∧
      t = { s with displays := t.displays, responses := s.responses ++ [[]] } ∧
      ∀ d : Fin 5,
        (d.val ≠ a.toNat → t.displays[d] = s.displays[d]) ∧
        (d.val = a.toNat → t.displays[d].digits = s.displays[d].digits ∧
          ∀ k, t.displays[d].mask.getLsbD k = (b.getLsbD k && decide (k < s.cfg.digits)))

/-- R554: SET_CREDITS and SET_BIP store the two decimal digits of the value modulo 100 and the mask that `on`, `showBoth` and
the tens digit give, each in its own sub-display. -/
def Obligations.SubDisplayEffect : Prop :=
  (∀ a b c : Byte, decode { op := 0x42#8, rest := [a, b, c] } = .ok (.setCredits a b c) ∧
    decode { op := 0x43#8, rest := [a, b, c] } = .ok (.setBip a b c)) ∧
  ∀ (s : State) (a b c : Byte), s.init = true → ∃ x : SubDisplay,
    exec (.setCredits a b c) s = .next { s with cred := x, responses := s.responses ++ [[]] } ∧
    exec (.setBip a b c) s = .next { s with bip := x, responses := s.responses ++ [[]] } ∧
    x.digit0.val = a.toNat % 100 % 10 ∧ x.digit1.val = a.toNat % 100 / 10 ∧
    (b = 0#8 → x.mask = 0b00#2) ∧
    (b ≠ 0#8 → c ≠ 0#8 ∨ 10 ≤ a.toNat % 100 → x.mask = 0b11#2) ∧
    (b ≠ 0#8 → c = 0#8 → a.toNat % 100 < 10 → x.mask = 0b01#2)

/-- R556: the strobe writes the slot's row select, then the digit its owner shows there or the blank code, and goes on to the
next slot; nothing else changes. -/
def Obligations.DisplayStrobeEffect : Prop :=
  ∀ (s : State) (x : Slot), s.cfg.displaySequence[s.dispPos]? = some x → ∃ v : Byte, v = slotData s x ∧
    (displayStrobe s).bus.trace = s.bus.trace ++
      [.write s.cfg.dispSelectAddr.toNat x.sel, .write s.cfg.dispDataAddr.toNat v] ∧
    displayStrobe s = { s with bus := (displayStrobe s).bus, dispPos := (s.dispPos + 1) % s.cfg.displaySequence.length } ∧
    (∀ d, x.owner = .primary d → v =
      if s.displays[d].mask.getLsbD x.k then BitVec.ofNat 8 (s.displays[d].digits.getD x.k 0).val
      else s.cfg.dispBlankCode) ∧
    (x.owner = .cred → v =
      if s.cred.mask.getLsbD x.k then BitVec.ofNat 8 (if x.k = 0 then s.cred.digit0 else s.cred.digit1).val
      else s.cfg.dispBlankCode) ∧
    (x.owner = .bip → v =
      if s.bip.mask.getLsbD x.k then BitVec.ofNat 8 (if x.k = 0 then s.bip.digit0 else s.bip.digit1).val
      else s.cfg.dispBlankCode)

/-! ### Sound -/

/-- R600 and R601: PUSH_SOUND answers whether the value is in the range, both ends included, and queues a legal value behind
the others where there is room. -/
def Obligations.PushSoundEffect : Prop :=
  (∀ a : Byte, decode { op := 0x50#8, rest := [a] } = .ok (.pushSound a)) ∧
  ∀ (s : State) (a : Byte), s.init = true → s.sndq.wf s.cfg.sndqCap = true →
    (a.toNat < s.sndLo.toNat ∨ s.sndHi.toNat < a.toNat →
      exec (.pushSound a) s = .next { s with responses := s.responses ++ [[0#8]] }) ∧
    (s.sndLo.toNat ≤ a.toNat → a.toNat ≤ s.sndHi.toNat → ∃ q : Ring, q.wf s.cfg.sndqCap = true ∧
      q.entries = (s.sndq.entries ++ [a]).take (s.cfg.sndqCap - 1) ∧
      exec (.pushSound a) s = .next { s with sndq := q, responses := s.responses ++ [[1#8]] })

/-- R602: PUSH_TIMED_SOUND claims the lowest free slot for a legal value and answers 1; a value out of range, or no free
slot, answers 0 and changes nothing. -/
def Obligations.PushTimedSoundEffect : Prop :=
  (∀ a t0 t1 t2 t3 : Byte, decode { op := 0x51#8, rest := [a, t0, t1, t2, t3] } =
    .ok (.pushTimedSound a (t3 ++ t2 ++ t1 ++ t0))) ∧
  ∀ (s : State) (a : Byte) (t : U32), s.init = true →
    (a.toNat < s.sndLo.toNat ∨ s.sndHi.toNat < a.toNat ∨ (∀ e ∈ s.tsnd, e.active = true) →
      exec (.pushTimedSound a t) s = .next { s with responses := s.responses ++ [[0#8]] }) ∧
    (s.sndLo.toNat ≤ a.toNat → a.toNat ≤ s.sndHi.toNat → ∀ taken e free, s.tsnd = taken ++ e :: free →
      (∀ x ∈ taken, x.active = true) → e.active = false →
      exec (.pushTimedSound a t) s = .next { s with
        tsnd := taken ++ { active := true, fireAt := t, val := a } :: free
        responses := s.responses ++ [[1#8]] })

/-- R604: SET_SOUND_RANGE stores both bounds as they are given, an empty range too, and re-checks nothing. -/
def Obligations.SetSoundRangeEffect : Prop :=
  (∀ a b : Byte, decode { op := 0x52#8, rest := [a, b] } = .ok (.setSoundRange a b)) ∧
  ∀ (s : State) (a b : Byte), s.init = true →
    exec (.setSoundRange a b) s = .next { s with sndLo := a, sndHi := b, responses := s.responses ++ [[]] }

/-- R605: an actuate pass takes the first queued value and writes it, or writes the silent value when there is none; nothing
else changes. -/
def Obligations.SoundActuation : Prop :=
  ∀ s : State, s.sndq.wf s.cfg.sndqCap = true →
    soundActuate s = { s with sndq := (soundActuate s).sndq, bus := (soundActuate s).bus } ∧
    (soundActuate s).sndq.wf s.cfg.sndqCap = true ∧
    (soundActuate s).sndq.entries = s.sndq.entries.tail ∧
    (soundActuate s).bus.trace = s.bus.trace ++
      [.write s.cfg.soundAddr.toNat (s.sndq.entries.head?.getD s.cfg.soundSilent)]
end

