-- ==== Sys2Proof/Laws/Bank.lean ====
section
/-! SUPPORT. Single bits: of a bank's bytes, of the solenoid masks. -/

namespace Sys2Proof.Laws

open Sys2Proof.Machine

/-- Bit `j` of a byte after bit `k` was made `v`. -/
theorem getLsbD_setByteBit (x : Byte) {k j : Nat} (v : Bool) (hk : k < 8) :
    (setByteBit x k v).getLsbD j = if j = k then v else x.getLsbD j := by
  have h : (1#8 <<< k).getLsbD j = decide (j = k) := by
    by_cases hj : j = k
    · subst hj; simp [hk]
    · simp [hj]; omega
  unfold setByteBit
  by_cases hj : j = k
  · subst hj; cases v <;> simp_all
  · by_cases hj8 : j < 8
    · cases v <;> simp_all <;> omega
    · cases v <;> simp_all [BitVec.getLsbD_of_ge]

@[simp] theorem setBankBit_length (bank : List Byte) (n : Nat) (v : Bool) :
    (setBankBit bank n v).length = bank.length := by
  simp [setBankBit]

/-- The bit of switch or lamp `m` after that of `n` was written: only its own bit changes (R400, R500). -/
theorem bankBit_setBankBit {bank : List Byte} {n : Nat} (m : Nat) (v : Bool) (hn : n < 8 * bank.length) :
    bankBit (setBankBit bank n v) m = if m = n then v else bankBit bank m := by
  have hlt : n / 8 < bank.length := by omega
  unfold bankBit setBankBit
  by_cases hd : m / 8 = n / 8
  · have hg : (bank.set (n / 8) (setByteBit (bank.getD (n / 8) 0#8) (n % 8) v)).getD (m / 8) 0#8 =
        setByteBit (bank.getD (n / 8) 0#8) (n % 8) v := by
      rw [hd]; simp [List.getD_eq_getElem?_getD, hlt]
    rw [hg, getLsbD_setByteBit _ _ (Nat.mod_lt _ (by omega)), hd]
    by_cases hm : m % 8 = n % 8
    · rw [if_pos hm, if_pos (by omega)]
    · rw [if_neg hm, if_neg (by omega)]
  · have hg : (bank.set (n / 8) (setByteBit (bank.getD (n / 8) 0#8) (n % 8) v)).getD (m / 8) 0#8 =
        bank.getD (m / 8) 0#8 := by
      simp [List.getD_eq_getElem?_getD, Ne.symm hd]
    rw [hg, if_neg (fun h => hd (by rw [h]))]

/-- The ids below `n`, bit by bit. -/
theorem getLsbD_idMask (n : Nat) {k : Nat} (hk : k < 32) : (idMask n).getLsbD k = decide (k < n) := by
  rw [idMask, BitVec.getLsbD_ofNat, Nat.testBit_two_pow_sub_one]
  simp [hk]

/-- The mask of one solenoid, bit by bit. -/
theorem getLsbD_bit32 (n : Nat) {k : Nat} (hk : k < 32) : (bit32 n).getLsbD k = decide (k = n) := by
  by_cases h : k = n
  · subst h; simp [bit32, hk]
  · simp [bit32, h]; omega

end Sys2Proof.Laws
end

