-- ==== Sys2Proof/Laws/State.lean ====
section
/-! SUPPORT. The fields of a state after each named update: one lemma a field, true by definition. -/

namespace Sys2Proof.Laws

open Sys2Proof.Machine

/-! ### respond -/

@[simp] theorem respond_cfg (r : List Byte) (s : State) : (respond r s).cfg = s.cfg := rfl
@[simp] theorem respond_init (r : List Byte) (s : State) : (respond r s).init = s.init := rfl
@[simp] theorem respond_irqSuspended (r : List Byte) (s : State) : (respond r s).irqSuspended = s.irqSuspended := rfl
@[simp] theorem respond_firePending (r : List Byte) (s : State) : (respond r s).firePending = s.firePending := rfl
@[simp] theorem respond_errSticky (r : List Byte) (s : State) : (respond r s).errSticky = s.errSticky := rfl
@[simp] theorem respond_lastErr (r : List Byte) (s : State) : (respond r s).lastErr = s.lastErr := rfl
@[simp] theorem respond_phase (r : List Byte) (s : State) : (respond r s).phase = s.phase := rfl
@[simp] theorem respond_tickCount (r : List Byte) (s : State) : (respond r s).tickCount = s.tickCount := rfl
@[simp] theorem respond_scanCount (r : List Byte) (s : State) : (respond r s).scanCount = s.scanCount := rfl
@[simp] theorem respond_lampCycle (r : List Byte) (s : State) : (respond r s).lampCycle = s.lampCycle := rfl
@[simp] theorem respond_dimDiv1 (r : List Byte) (s : State) : (respond r s).dimDiv1 = s.dimDiv1 := rfl
@[simp] theorem respond_dimDiv2 (r : List Byte) (s : State) : (respond r s).dimDiv2 = s.dimDiv2 := rfl
@[simp] theorem respond_sndLo (r : List Byte) (s : State) : (respond r s).sndLo = s.sndLo := rfl
@[simp] theorem respond_sndHi (r : List Byte) (s : State) : (respond r s).sndHi = s.sndHi := rfl
@[simp] theorem respond_solDisabled (r : List Byte) (s : State) : (respond r s).solDisabled = s.solDisabled := rfl
@[simp] theorem respond_contMask (r : List Byte) (s : State) : (respond r s).contMask = s.contMask := rfl
@[simp] theorem respond_swNow (r : List Byte) (s : State) : (respond r s).swNow = s.swNow := rfl
@[simp] theorem respond_swM1 (r : List Byte) (s : State) : (respond r s).swM1 = s.swM1 := rfl
@[simp] theorem respond_swM2 (r : List Byte) (s : State) : (respond r s).swM2 = s.swM2 := rfl
@[simp] theorem respond_selfTestLevel (r : List Byte) (s : State) : (respond r s).selfTestLevel = s.selfTestLevel := rfl
@[simp] theorem respond_swq (r : List Byte) (s : State) : (respond r s).swq = s.swq := rfl
@[simp] theorem respond_solq (r : List Byte) (s : State) : (respond r s).solq = s.solq := rfl
@[simp] theorem respond_tsol (r : List Byte) (s : State) : (respond r s).tsol = s.tsol := rfl
@[simp] theorem respond_lampState (r : List Byte) (s : State) : (respond r s).lampState = s.lampState := rfl
@[simp] theorem respond_lampDim1 (r : List Byte) (s : State) : (respond r s).lampDim1 = s.lampDim1 := rfl
@[simp] theorem respond_lampDim2 (r : List Byte) (s : State) : (respond r s).lampDim2 = s.lampDim2 := rfl
@[simp] theorem respond_flashPeriod (r : List Byte) (s : State) : (respond r s).flashPeriod = s.flashPeriod := rfl
@[simp] theorem respond_lampBank (r : List Byte) (s : State) : (respond r s).lampBank = s.lampBank := rfl
@[simp] theorem respond_displays (r : List Byte) (s : State) : (respond r s).displays = s.displays := rfl
@[simp] theorem respond_cred (r : List Byte) (s : State) : (respond r s).cred = s.cred := rfl
@[simp] theorem respond_bip (r : List Byte) (s : State) : (respond r s).bip = s.bip := rfl
@[simp] theorem respond_dispPos (r : List Byte) (s : State) : (respond r s).dispPos = s.dispPos := rfl
@[simp] theorem respond_sndq (r : List Byte) (s : State) : (respond r s).sndq = s.sndq := rfl
@[simp] theorem respond_tsnd (r : List Byte) (s : State) : (respond r s).tsnd = s.tsnd := rfl
@[simp] theorem respond_udTimer (r : List Byte) (s : State) : (respond r s).udTimer = s.udTimer := rfl
@[simp] theorem respond_udEvent (r : List Byte) (s : State) : (respond r s).udEvent = s.udEvent := rfl
@[simp] theorem respond_inputs (r : List Byte) (s : State) : (respond r s).inputs = s.inputs := rfl
@[simp] theorem respond_bus (r : List Byte) (s : State) : (respond r s).bus = s.bus := rfl
@[simp] theorem respond_responses (r : List Byte) (s : State) : (respond r s).responses = s.responses ++ [r] := rfl

/-! ### commandError -/

@[simp] theorem commandError_cfg (e : CommandError) (s : State) : (commandError e s).cfg = s.cfg := rfl
@[simp] theorem commandError_init (e : CommandError) (s : State) : (commandError e s).init = s.init := rfl
@[simp] theorem commandError_irqSuspended (e : CommandError) (s : State) : (commandError e s).irqSuspended = s.irqSuspended := rfl
@[simp] theorem commandError_firePending (e : CommandError) (s : State) : (commandError e s).firePending = s.firePending := rfl
@[simp] theorem commandError_errSticky (e : CommandError) (s : State) : (commandError e s).errSticky = true := rfl
@[simp] theorem commandError_lastErr (e : CommandError) (s : State) : (commandError e s).lastErr = errorCode e := rfl
@[simp] theorem commandError_phase (e : CommandError) (s : State) : (commandError e s).phase = s.phase := rfl
@[simp] theorem commandError_tickCount (e : CommandError) (s : State) : (commandError e s).tickCount = s.tickCount := rfl
@[simp] theorem commandError_scanCount (e : CommandError) (s : State) : (commandError e s).scanCount = s.scanCount := rfl
@[simp] theorem commandError_lampCycle (e : CommandError) (s : State) : (commandError e s).lampCycle = s.lampCycle := rfl
@[simp] theorem commandError_dimDiv1 (e : CommandError) (s : State) : (commandError e s).dimDiv1 = s.dimDiv1 := rfl
@[simp] theorem commandError_dimDiv2 (e : CommandError) (s : State) : (commandError e s).dimDiv2 = s.dimDiv2 := rfl
@[simp] theorem commandError_sndLo (e : CommandError) (s : State) : (commandError e s).sndLo = s.sndLo := rfl
@[simp] theorem commandError_sndHi (e : CommandError) (s : State) : (commandError e s).sndHi = s.sndHi := rfl
@[simp] theorem commandError_solDisabled (e : CommandError) (s : State) : (commandError e s).solDisabled = s.solDisabled := rfl
@[simp] theorem commandError_contMask (e : CommandError) (s : State) : (commandError e s).contMask = s.contMask := rfl
@[simp] theorem commandError_swNow (e : CommandError) (s : State) : (commandError e s).swNow = s.swNow := rfl
@[simp] theorem commandError_swM1 (e : CommandError) (s : State) : (commandError e s).swM1 = s.swM1 := rfl
@[simp] theorem commandError_swM2 (e : CommandError) (s : State) : (commandError e s).swM2 = s.swM2 := rfl
@[simp] theorem commandError_selfTestLevel (e : CommandError) (s : State) : (commandError e s).selfTestLevel = s.selfTestLevel := rfl
@[simp] theorem commandError_swq (e : CommandError) (s : State) : (commandError e s).swq = s.swq := rfl
@[simp] theorem commandError_solq (e : CommandError) (s : State) : (commandError e s).solq = s.solq := rfl
@[simp] theorem commandError_tsol (e : CommandError) (s : State) : (commandError e s).tsol = s.tsol := rfl
@[simp] theorem commandError_lampState (e : CommandError) (s : State) : (commandError e s).lampState = s.lampState := rfl
@[simp] theorem commandError_lampDim1 (e : CommandError) (s : State) : (commandError e s).lampDim1 = s.lampDim1 := rfl
@[simp] theorem commandError_lampDim2 (e : CommandError) (s : State) : (commandError e s).lampDim2 = s.lampDim2 := rfl
@[simp] theorem commandError_flashPeriod (e : CommandError) (s : State) : (commandError e s).flashPeriod = s.flashPeriod := rfl
@[simp] theorem commandError_lampBank (e : CommandError) (s : State) : (commandError e s).lampBank = s.lampBank := rfl
@[simp] theorem commandError_displays (e : CommandError) (s : State) : (commandError e s).displays = s.displays := rfl
@[simp] theorem commandError_cred (e : CommandError) (s : State) : (commandError e s).cred = s.cred := rfl
@[simp] theorem commandError_bip (e : CommandError) (s : State) : (commandError e s).bip = s.bip := rfl
@[simp] theorem commandError_dispPos (e : CommandError) (s : State) : (commandError e s).dispPos = s.dispPos := rfl
@[simp] theorem commandError_sndq (e : CommandError) (s : State) : (commandError e s).sndq = s.sndq := rfl
@[simp] theorem commandError_tsnd (e : CommandError) (s : State) : (commandError e s).tsnd = s.tsnd := rfl
@[simp] theorem commandError_udTimer (e : CommandError) (s : State) : (commandError e s).udTimer = s.udTimer := rfl
@[simp] theorem commandError_udEvent (e : CommandError) (s : State) : (commandError e s).udEvent = s.udEvent := rfl
@[simp] theorem commandError_inputs (e : CommandError) (s : State) : (commandError e s).inputs = s.inputs := rfl
@[simp] theorem commandError_bus (e : CommandError) (s : State) : (commandError e s).bus = s.bus := rfl
@[simp] theorem commandError_responses (e : CommandError) (s : State) : (commandError e s).responses = s.responses ++ [[]] := rfl

/-! ### busWrite -/

@[simp] theorem busWrite_cfg (a : Nat) (v : Byte) (s : State) : (busWrite a v s).cfg = s.cfg := rfl
@[simp] theorem busWrite_init (a : Nat) (v : Byte) (s : State) : (busWrite a v s).init = s.init := rfl
@[simp] theorem busWrite_irqSuspended (a : Nat) (v : Byte) (s : State) : (busWrite a v s).irqSuspended = s.irqSuspended := rfl
@[simp] theorem busWrite_firePending (a : Nat) (v : Byte) (s : State) : (busWrite a v s).firePending = s.firePending := rfl
@[simp] theorem busWrite_errSticky (a : Nat) (v : Byte) (s : State) : (busWrite a v s).errSticky = s.errSticky := rfl
@[simp] theorem busWrite_lastErr (a : Nat) (v : Byte) (s : State) : (busWrite a v s).lastErr = s.lastErr := rfl
@[simp] theorem busWrite_phase (a : Nat) (v : Byte) (s : State) : (busWrite a v s).phase = s.phase := rfl
@[simp] theorem busWrite_tickCount (a : Nat) (v : Byte) (s : State) : (busWrite a v s).tickCount = s.tickCount := rfl
@[simp] theorem busWrite_scanCount (a : Nat) (v : Byte) (s : State) : (busWrite a v s).scanCount = s.scanCount := rfl
@[simp] theorem busWrite_lampCycle (a : Nat) (v : Byte) (s : State) : (busWrite a v s).lampCycle = s.lampCycle := rfl
@[simp] theorem busWrite_dimDiv1 (a : Nat) (v : Byte) (s : State) : (busWrite a v s).dimDiv1 = s.dimDiv1 := rfl
@[simp] theorem busWrite_dimDiv2 (a : Nat) (v : Byte) (s : State) : (busWrite a v s).dimDiv2 = s.dimDiv2 := rfl
@[simp] theorem busWrite_sndLo (a : Nat) (v : Byte) (s : State) : (busWrite a v s).sndLo = s.sndLo := rfl
@[simp] theorem busWrite_sndHi (a : Nat) (v : Byte) (s : State) : (busWrite a v s).sndHi = s.sndHi := rfl
@[simp] theorem busWrite_solDisabled (a : Nat) (v : Byte) (s : State) : (busWrite a v s).solDisabled = s.solDisabled := rfl
@[simp] theorem busWrite_contMask (a : Nat) (v : Byte) (s : State) : (busWrite a v s).contMask = s.contMask := rfl
@[simp] theorem busWrite_swNow (a : Nat) (v : Byte) (s : State) : (busWrite a v s).swNow = s.swNow := rfl
@[simp] theorem busWrite_swM1 (a : Nat) (v : Byte) (s : State) : (busWrite a v s).swM1 = s.swM1 := rfl
@[simp] theorem busWrite_swM2 (a : Nat) (v : Byte) (s : State) : (busWrite a v s).swM2 = s.swM2 := rfl
@[simp] theorem busWrite_selfTestLevel (a : Nat) (v : Byte) (s : State) : (busWrite a v s).selfTestLevel = s.selfTestLevel := rfl
@[simp] theorem busWrite_swq (a : Nat) (v : Byte) (s : State) : (busWrite a v s).swq = s.swq := rfl
@[simp] theorem busWrite_solq (a : Nat) (v : Byte) (s : State) : (busWrite a v s).solq = s.solq := rfl
@[simp] theorem busWrite_tsol (a : Nat) (v : Byte) (s : State) : (busWrite a v s).tsol = s.tsol := rfl
@[simp] theorem busWrite_lampState (a : Nat) (v : Byte) (s : State) : (busWrite a v s).lampState = s.lampState := rfl
@[simp] theorem busWrite_lampDim1 (a : Nat) (v : Byte) (s : State) : (busWrite a v s).lampDim1 = s.lampDim1 := rfl
@[simp] theorem busWrite_lampDim2 (a : Nat) (v : Byte) (s : State) : (busWrite a v s).lampDim2 = s.lampDim2 := rfl
@[simp] theorem busWrite_flashPeriod (a : Nat) (v : Byte) (s : State) : (busWrite a v s).flashPeriod = s.flashPeriod := rfl
@[simp] theorem busWrite_lampBank (a : Nat) (v : Byte) (s : State) : (busWrite a v s).lampBank = s.lampBank := rfl
@[simp] theorem busWrite_displays (a : Nat) (v : Byte) (s : State) : (busWrite a v s).displays = s.displays := rfl
@[simp] theorem busWrite_cred (a : Nat) (v : Byte) (s : State) : (busWrite a v s).cred = s.cred := rfl
@[simp] theorem busWrite_bip (a : Nat) (v : Byte) (s : State) : (busWrite a v s).bip = s.bip := rfl
@[simp] theorem busWrite_dispPos (a : Nat) (v : Byte) (s : State) : (busWrite a v s).dispPos = s.dispPos := rfl
@[simp] theorem busWrite_sndq (a : Nat) (v : Byte) (s : State) : (busWrite a v s).sndq = s.sndq := rfl
@[simp] theorem busWrite_tsnd (a : Nat) (v : Byte) (s : State) : (busWrite a v s).tsnd = s.tsnd := rfl
@[simp] theorem busWrite_udTimer (a : Nat) (v : Byte) (s : State) : (busWrite a v s).udTimer = s.udTimer := rfl
@[simp] theorem busWrite_udEvent (a : Nat) (v : Byte) (s : State) : (busWrite a v s).udEvent = s.udEvent := rfl
@[simp] theorem busWrite_inputs (a : Nat) (v : Byte) (s : State) : (busWrite a v s).inputs = s.inputs := rfl
@[simp] theorem busWrite_bus (a : Nat) (v : Byte) (s : State) : (busWrite a v s).bus = s.bus.write a v := rfl
@[simp] theorem busWrite_responses (a : Nat) (v : Byte) (s : State) : (busWrite a v s).responses = s.responses := rfl

/-! ### busRead -/

@[simp] theorem busRead_cfg (a : Nat) (s : State) : (busRead a s).cfg = s.cfg := rfl
@[simp] theorem busRead_init (a : Nat) (s : State) : (busRead a s).init = s.init := rfl
@[simp] theorem busRead_irqSuspended (a : Nat) (s : State) : (busRead a s).irqSuspended = s.irqSuspended := rfl
@[simp] theorem busRead_firePending (a : Nat) (s : State) : (busRead a s).firePending = s.firePending := rfl
@[simp] theorem busRead_errSticky (a : Nat) (s : State) : (busRead a s).errSticky = s.errSticky := rfl
@[simp] theorem busRead_lastErr (a : Nat) (s : State) : (busRead a s).lastErr = s.lastErr := rfl
@[simp] theorem busRead_phase (a : Nat) (s : State) : (busRead a s).phase = s.phase := rfl
@[simp] theorem busRead_tickCount (a : Nat) (s : State) : (busRead a s).tickCount = s.tickCount := rfl
@[simp] theorem busRead_scanCount (a : Nat) (s : State) : (busRead a s).scanCount = s.scanCount := rfl
@[simp] theorem busRead_lampCycle (a : Nat) (s : State) : (busRead a s).lampCycle = s.lampCycle := rfl
@[simp] theorem busRead_dimDiv1 (a : Nat) (s : State) : (busRead a s).dimDiv1 = s.dimDiv1 := rfl
@[simp] theorem busRead_dimDiv2 (a : Nat) (s : State) : (busRead a s).dimDiv2 = s.dimDiv2 := rfl
@[simp] theorem busRead_sndLo (a : Nat) (s : State) : (busRead a s).sndLo = s.sndLo := rfl
@[simp] theorem busRead_sndHi (a : Nat) (s : State) : (busRead a s).sndHi = s.sndHi := rfl
@[simp] theorem busRead_solDisabled (a : Nat) (s : State) : (busRead a s).solDisabled = s.solDisabled := rfl
@[simp] theorem busRead_contMask (a : Nat) (s : State) : (busRead a s).contMask = s.contMask := rfl
@[simp] theorem busRead_swNow (a : Nat) (s : State) : (busRead a s).swNow = s.swNow := rfl
@[simp] theorem busRead_swM1 (a : Nat) (s : State) : (busRead a s).swM1 = s.swM1 := rfl
@[simp] theorem busRead_swM2 (a : Nat) (s : State) : (busRead a s).swM2 = s.swM2 := rfl
@[simp] theorem busRead_selfTestLevel (a : Nat) (s : State) : (busRead a s).selfTestLevel = s.selfTestLevel := rfl
@[simp] theorem busRead_swq (a : Nat) (s : State) : (busRead a s).swq = s.swq := rfl
@[simp] theorem busRead_solq (a : Nat) (s : State) : (busRead a s).solq = s.solq := rfl
@[simp] theorem busRead_tsol (a : Nat) (s : State) : (busRead a s).tsol = s.tsol := rfl
@[simp] theorem busRead_lampState (a : Nat) (s : State) : (busRead a s).lampState = s.lampState := rfl
@[simp] theorem busRead_lampDim1 (a : Nat) (s : State) : (busRead a s).lampDim1 = s.lampDim1 := rfl
@[simp] theorem busRead_lampDim2 (a : Nat) (s : State) : (busRead a s).lampDim2 = s.lampDim2 := rfl
@[simp] theorem busRead_flashPeriod (a : Nat) (s : State) : (busRead a s).flashPeriod = s.flashPeriod := rfl
@[simp] theorem busRead_lampBank (a : Nat) (s : State) : (busRead a s).lampBank = s.lampBank := rfl
@[simp] theorem busRead_displays (a : Nat) (s : State) : (busRead a s).displays = s.displays := rfl
@[simp] theorem busRead_cred (a : Nat) (s : State) : (busRead a s).cred = s.cred := rfl
@[simp] theorem busRead_bip (a : Nat) (s : State) : (busRead a s).bip = s.bip := rfl
@[simp] theorem busRead_dispPos (a : Nat) (s : State) : (busRead a s).dispPos = s.dispPos := rfl
@[simp] theorem busRead_sndq (a : Nat) (s : State) : (busRead a s).sndq = s.sndq := rfl
@[simp] theorem busRead_tsnd (a : Nat) (s : State) : (busRead a s).tsnd = s.tsnd := rfl
@[simp] theorem busRead_udTimer (a : Nat) (s : State) : (busRead a s).udTimer = s.udTimer := rfl
@[simp] theorem busRead_udEvent (a : Nat) (s : State) : (busRead a s).udEvent = s.udEvent := rfl
@[simp] theorem busRead_inputs (a : Nat) (s : State) : (busRead a s).inputs = s.inputs := rfl
@[simp] theorem busRead_bus (a : Nat) (s : State) : (busRead a s).bus = s.bus.read a := rfl
@[simp] theorem busRead_responses (a : Nat) (s : State) : (busRead a s).responses = s.responses := rfl

/-! ### withFetchWord -/

@[simp] theorem withFetchWord_cfg (s : State) (n w : Nat) : (s.withFetchWord n w).cfg = s.cfg := rfl
@[simp] theorem withFetchWord_init (s : State) (n w : Nat) : (s.withFetchWord n w).init = s.init := rfl
@[simp] theorem withFetchWord_irqSuspended (s : State) (n w : Nat) : (s.withFetchWord n w).irqSuspended = s.irqSuspended := rfl
@[simp] theorem withFetchWord_firePending (s : State) (n w : Nat) : (s.withFetchWord n w).firePending = s.firePending := rfl
@[simp] theorem withFetchWord_errSticky (s : State) (n w : Nat) : (s.withFetchWord n w).errSticky = s.errSticky := rfl
@[simp] theorem withFetchWord_lastErr (s : State) (n w : Nat) : (s.withFetchWord n w).lastErr = s.lastErr := rfl
@[simp] theorem withFetchWord_phase (s : State) (n w : Nat) : (s.withFetchWord n w).phase = s.phase := rfl
@[simp] theorem withFetchWord_tickCount (s : State) (n w : Nat) : (s.withFetchWord n w).tickCount = s.tickCount := rfl
@[simp] theorem withFetchWord_scanCount (s : State) (n w : Nat) : (s.withFetchWord n w).scanCount = s.scanCount := rfl
@[simp] theorem withFetchWord_lampCycle (s : State) (n w : Nat) : (s.withFetchWord n w).lampCycle = s.lampCycle := rfl
@[simp] theorem withFetchWord_dimDiv1 (s : State) (n w : Nat) : (s.withFetchWord n w).dimDiv1 = s.dimDiv1 := rfl
@[simp] theorem withFetchWord_dimDiv2 (s : State) (n w : Nat) : (s.withFetchWord n w).dimDiv2 = s.dimDiv2 := rfl
@[simp] theorem withFetchWord_sndLo (s : State) (n w : Nat) : (s.withFetchWord n w).sndLo = s.sndLo := rfl
@[simp] theorem withFetchWord_sndHi (s : State) (n w : Nat) : (s.withFetchWord n w).sndHi = s.sndHi := rfl
@[simp] theorem withFetchWord_solDisabled (s : State) (n w : Nat) : (s.withFetchWord n w).solDisabled = s.solDisabled := rfl
@[simp] theorem withFetchWord_contMask (s : State) (n w : Nat) : (s.withFetchWord n w).contMask = s.contMask := rfl
@[simp] theorem withFetchWord_swNow (s : State) (n w : Nat) : (s.withFetchWord n w).swNow = s.swNow := rfl
@[simp] theorem withFetchWord_swM1 (s : State) (n w : Nat) : (s.withFetchWord n w).swM1 = s.swM1 := rfl
@[simp] theorem withFetchWord_swM2 (s : State) (n w : Nat) : (s.withFetchWord n w).swM2 = s.swM2 := rfl
@[simp] theorem withFetchWord_selfTestLevel (s : State) (n w : Nat) : (s.withFetchWord n w).selfTestLevel = s.selfTestLevel := rfl
@[simp] theorem withFetchWord_swq (s : State) (n w : Nat) : (s.withFetchWord n w).swq = s.swq := rfl
@[simp] theorem withFetchWord_solq (s : State) (n w : Nat) : (s.withFetchWord n w).solq = s.solq := rfl
@[simp] theorem withFetchWord_tsol (s : State) (n w : Nat) : (s.withFetchWord n w).tsol = s.tsol := rfl
@[simp] theorem withFetchWord_lampState (s : State) (n w : Nat) : (s.withFetchWord n w).lampState = s.lampState := rfl
@[simp] theorem withFetchWord_lampDim1 (s : State) (n w : Nat) : (s.withFetchWord n w).lampDim1 = s.lampDim1 := rfl
@[simp] theorem withFetchWord_lampDim2 (s : State) (n w : Nat) : (s.withFetchWord n w).lampDim2 = s.lampDim2 := rfl
@[simp] theorem withFetchWord_flashPeriod (s : State) (n w : Nat) : (s.withFetchWord n w).flashPeriod = s.flashPeriod := rfl
@[simp] theorem withFetchWord_lampBank (s : State) (n w : Nat) : (s.withFetchWord n w).lampBank = s.lampBank := rfl
@[simp] theorem withFetchWord_displays (s : State) (n w : Nat) : (s.withFetchWord n w).displays = s.displays := rfl
@[simp] theorem withFetchWord_cred (s : State) (n w : Nat) : (s.withFetchWord n w).cred = s.cred := rfl
@[simp] theorem withFetchWord_bip (s : State) (n w : Nat) : (s.withFetchWord n w).bip = s.bip := rfl
@[simp] theorem withFetchWord_dispPos (s : State) (n w : Nat) : (s.withFetchWord n w).dispPos = s.dispPos := rfl
@[simp] theorem withFetchWord_sndq (s : State) (n w : Nat) : (s.withFetchWord n w).sndq = s.sndq := rfl
@[simp] theorem withFetchWord_tsnd (s : State) (n w : Nat) : (s.withFetchWord n w).tsnd = s.tsnd := rfl
@[simp] theorem withFetchWord_udTimer (s : State) (n w : Nat) : (s.withFetchWord n w).udTimer = s.udTimer := rfl
@[simp] theorem withFetchWord_udEvent (s : State) (n w : Nat) : (s.withFetchWord n w).udEvent = s.udEvent := rfl
@[simp] theorem withFetchWord_inputs (s : State) (n w : Nat) : (s.withFetchWord n w).inputs = .command (frameOfTableWord n w) :: s.inputs := rfl
@[simp] theorem withFetchWord_bus (s : State) (n w : Nat) : (s.withFetchWord n w).bus = s.bus := rfl
@[simp] theorem withFetchWord_responses (s : State) (n w : Nat) : (s.withFetchWord n w).responses = s.responses := rfl

/-! ### The bus after a transaction -/

@[simp] theorem write_trace (b : Bus) (a : Nat) (v : Byte) : (b.write a v).trace = b.trace ++ [.write a v] := rfl
@[simp] theorem write_latched (b : Bus) (a : Nat) (v : Byte) : (b.write a v).latched = Memory.write b.latched a v := rfl
@[simp] theorem write_answers (b : Bus) (a : Nat) (v : Byte) : (b.write a v).answers = b.answers := rfl
@[simp] theorem write_reads (b : Bus) (a : Nat) (v : Byte) : (b.write a v).reads = b.reads := rfl
@[simp] theorem write_draw (b : Bus) (a : Nat) (v : Byte) : (b.write a v).draw = b.draw := rfl
@[simp] theorem read_trace (b : Bus) (a : Nat) : (b.read a).trace = b.trace ++ [.read a b.draw] := rfl
@[simp] theorem read_latched (b : Bus) (a : Nat) : (b.read a).latched = b.latched := rfl
@[simp] theorem read_answers (b : Bus) (a : Nat) : (b.read a).answers = b.answers.tail := rfl
@[simp] theorem read_reads (b : Bus) (a : Nat) : (b.read a).reads = b.reads + 1 := rfl
@[simp] theorem settle_eq (s : State) : settle s = s := rfl

end Sys2Proof.Laws
end

