-- ==== Sys2Proof/Laws/Ops.lean ====
section
/-! SUPPORT. What the shared operations can do, said once: the ends of a command, the loops, and one step. -/

namespace Sys2Proof.Laws

open Sys2Proof.Machine

/-- A command that completes ran on an initialised block, and its effect is the next state. -/
@[simp] theorem whenInitialised_next (s e t : State) : whenInitialised s e = .next t ↔ s.init = true ∧ e = t := by
  unfold whenInitialised
  split <;> simp_all

/-- A command stops only before the first RESET, with the one model fault (R806). -/
@[simp] theorem whenInitialised_fault (s e : State) (r : Fault) :
    whenInitialised s e = .fault r ↔ s.init = false ∧ r = .notInitialised := by
  cases r
  unfold whenInitialised
  split <;> simp_all

@[simp] theorem whenInitialised_refused (s e : State) (r : Refusal) : whenInitialised s e ≠ .refused r := by
  unfold whenInitialised
  split <;> simp

/-- An initialised block runs the command. -/
theorem whenInitialised_init {s e : State} (h : s.init = true) : whenInitialised s e = .next e := by
  simp [h]

/-- What comes of a legal configuration is the outcome itself; any other is refused (I13). -/
@[simp] theorem whenConfigured_next (s t : State) (o : Host.Outcome State Fault Refusal) :
    whenConfigured s o = .next t ↔ s.cfg.legal = true ∧ o = .next t := by
  unfold whenConfigured
  split <;> simp_all

theorem whenConfigured_legal {s : State} (h : s.cfg.legal = true) (o : Host.Outcome State Fault Refusal) :
    whenConfigured s o = o := by
  simp [whenConfigured, h]

@[simp] theorem forUpTo_zero (body : Nat → State → State) (s : State) : forUpTo 0 body s = s := rfl

theorem forUpTo_succ (n : Nat) (body : Nat → State → State) (s : State) :
    forUpTo (n + 1) body s = body n (forUpTo n body s) := by
  simp [forUpTo, List.range_succ]

/-- What holds of the state a loop starts in and is kept by its body, for the indices it takes, holds of the state it ends
in. -/
theorem forUpTo_keeps {P : State → Prop} {n : Nat} {body : Nat → State → State} {s : State} (hs : P s)
    (hb : ∀ k < n, ∀ s, P s → P (body k s)) : P (forUpTo n body s) := by
  induction n with
  | zero => exact hs
  | succ n ih => rw [forUpTo_succ]; exact hb n n.lt_succ_self _ (ih fun k hk => hb k (by omega))

/-- A field that the body leaves alone, the loop leaves alone. -/
theorem forUpTo_field {α : Type} (get : State → α) {n : Nat} {body : Nat → State → State} (s : State)
    (hb : ∀ k s, get (body k s) = get s) : get (forUpTo n body s) = get s :=
  forUpTo_keeps (P := fun s' => get s' = get s) rfl fun k _ s' h => by rw [hb, h]

/-- A step that answers a next state ran under a legal configuration, and did one of four things: it idled with no input
to come, or it took the first input, which was a frame, a timer event or the dispatcher's turn. -/
theorem step_cases {s t : State} (h : step s = .next t) :
    s.cfg.legal = true ∧
    ((s.inputs = [] ∧ t = s) ∨
     (∃ f rest, s.inputs = .command f :: rest ∧ runFrame f { s with inputs := rest } = .next t) ∨
     (∃ rest, s.inputs = .timer :: rest ∧ t = timerEvent { s with inputs := rest }) ∨
     (∃ rest, s.inputs = .pending :: rest ∧ t = pendingTurn { s with inputs := rest })) := by
  unfold step at h
  split at h
  · rename_i hi
    simp only [whenConfigured_next, Host.Outcome.next.injEq] at h
    exact ⟨h.1, .inl ⟨hi, h.2.symm⟩⟩
  · rename_i f rest hi
    simp only [whenConfigured_next] at h
    exact ⟨h.1, .inr (.inl ⟨f, rest, hi, h.2⟩)⟩
  · rename_i rest hi
    simp only [whenConfigured_next, Host.Outcome.next.injEq] at h
    exact ⟨h.1, .inr (.inr (.inl ⟨rest, hi, h.2.symm⟩))⟩
  · rename_i rest hi
    simp only [whenConfigured_next, Host.Outcome.next.injEq] at h
    exact ⟨h.1, .inr (.inr (.inr ⟨rest, hi, h.2.symm⟩))⟩

/-- A frame that is run to a next state decodes to a command that completes, or is a recorded decoding error. -/
theorem runFrame_cases {f : Frame} {s t : State} (h : runFrame f s = .next t) :
    (∃ i, decode f = .ok i ∧ exec i s = .next t) ∨
    (∃ e, decode f = .error e ∧ s.init = true ∧ t = commandError e s) := by
  unfold runFrame at h
  split at h
  · exact .inl ⟨_, ‹_›, h⟩
  · rename_i e he
    simp only [undecodable, whenInitialised_next] at h
    exact .inr ⟨e, he, h.1, h.2.symm⟩

end Sys2Proof.Laws
end

