-- ==== Sys2Proof/Laws/Frames.lean ====
section
/-! SUPPORT. Which fields each procedure writes, one equation a procedure: the state after is the state before but for the
fields the equation names. -/

namespace Sys2Proof.Laws

open Sys2Proof.Machine

theorem solPushPulsed_frame (id n : Byte) (o : Bool) (s : State) :
    solPushPulsed id n o s = { s with solq := (solPushPulsed id n o s).solq } := by
  unfold solPushPulsed; split <;> [rfl; split <;> rfl]

theorem solPushPriority_frame (id n : Byte) (s : State) :
    solPushPriority id n s = { s with solq := (solPushPriority id n s).solq } := by
  unfold solPushPriority; split <;> [rfl; split <;> rfl]

theorem swqPush_frame (n : Byte) (s : State) : swqPush n s = { s with swq := (swqPush n s).swq } := by
  unfold swqPush; split <;> rfl

theorem sndPush_frame (v : Byte) (s : State) : sndPush v s = { s with sndq := (sndPush v s).sndq } := by
  unfold sndPush; split <;> rfl

/-- A loop over bodies that write one field only writes that field. -/
theorem forUpTo_frame {upd : State → State → State} {n : Nat} {body : Nat → State → State} (s : State)
    (hrefl : ∀ s, s = upd s s) (htrans : ∀ a b c, b = upd a b → c = upd b c → c = upd a c)
    (hb : ∀ k s, body k s = upd s (body k s)) : forUpTo n body s = upd s (forUpTo n body s) :=
  forUpTo_keeps (P := fun s' => s' = upd s s') (hrefl s) fun k _ s' h => htrans s s' _ h (hb k s')

theorem timedSolSlot_frame (t : U32) (i : Nat) (s : State) :
    timedSolSlot t i s =
      { s with tsol := (timedSolSlot t i s).tsol, solq := (timedSolSlot t i s).solq } := by
  unfold timedSolSlot
  split
  · rfl
  · split
    · rw [solPushPulsed_frame]
    · rfl

theorem timedSolScan_frame (t : U32) (s : State) :
    timedSolScan t s = { s with tsol := (timedSolScan t s).tsol, solq := (timedSolScan t s).solq } :=
  forUpTo_frame (upd := fun a b => { a with tsol := b.tsol, solq := b.solq }) s (fun _ => rfl)
    (fun a b c h h' => by rw [h', h]) (timedSolSlot_frame t)

theorem timedSndSlot_frame (t : U32) (i : Nat) (s : State) :
    timedSndSlot t i s =
      { s with tsnd := (timedSndSlot t i s).tsnd, sndq := (timedSndSlot t i s).sndq } := by
  unfold timedSndSlot
  split
  · rfl
  · split
    · rw [sndPush_frame]
    · rfl

theorem timedSndScan_frame (t : U32) (s : State) :
    timedSndScan t s = { s with tsnd := (timedSndScan t s).tsnd, sndq := (timedSndScan t s).sndq } :=
  forUpTo_frame (upd := fun a b => { a with tsnd := b.tsnd, sndq := b.sndq }) s (fun _ => rfl)
    (fun a b c h h' => by rw [h', h]) (timedSndSlot_frame t)

theorem applyFlashLamp_frame (t : U32) (l : Nat) (s : State) :
    applyFlashLamp t l s = { s with lampState := (applyFlashLamp t l s).lampState } := by
  unfold applyFlashLamp; simp only; split <;> rfl

theorem applyFlash_frame (t : U32) (s : State) :
    applyFlash t s = { s with lampState := (applyFlash t s).lampState } :=
  forUpTo_frame (upd := fun a b => { a with lampState := b.lampState }) s (fun _ => rfl)
    (fun a b c h h' => by rw [h', h]) (applyFlashLamp_frame t)

theorem solWrite_frame (pat : U32) (s : State) : solWrite pat s = { s with bus := (solWrite pat s).bus } :=
  forUpTo_frame (upd := fun a b => { a with bus := b.bus }) s (fun _ => rfl)
    (fun a b c h h' => by rw [h', h]) (fun _ _ => rfl)

theorem solenoidActuate_frame (s : State) :
    solenoidActuate s = { s with solq := s.solq.popped, bus := (solenoidActuate s).bus } := by
  unfold solenoidActuate; rw [solWrite_frame]

theorem soundActuate_frame (s : State) :
    soundActuate s = { s with sndq := s.sndq.popped, bus := (soundActuate s).bus } := rfl

theorem displayStrobe_frame (s : State) :
    displayStrobe s = { s with dispPos := (displayStrobe s).dispPos, bus := (displayStrobe s).bus } := by
  unfold displayStrobe; split <;> rfl

theorem lampStrobe_frame (s : State) :
    lampStrobe s =
      { s with lampBank := (lampStrobe s).lampBank, lampCycle := (lampStrobe s).lampCycle, bus := (lampStrobe s).bus } := by
  unfold lampStrobe
  simp only
  split <;> rfl

theorem selfTestRead_frame (s : State) :
    selfTestRead s =
      { s with selfTestLevel := (selfTestRead s).selfTestLevel, swq := (selfTestRead s).swq,
               bus := (selfTestRead s).bus } := by
  unfold selfTestRead
  simp only
  split
  · rw [swqPush_frame]; rfl
  · rfl

theorem swSampleGroup_frame (g : Nat) (s : State) :
    swSampleGroup g s =
      { s with swNow := (swSampleGroup g s).swNow, swM1 := (swSampleGroup g s).swM1, swM2 := (swSampleGroup g s).swM2,
               bus := (swSampleGroup g s).bus } := rfl

theorem swEnqueueGroup_frame (g : Nat) (s : State) :
    swEnqueueGroup g s = { s with swq := (swEnqueueGroup g s).swq } := by
  unfold swEnqueueGroup
  refine forUpTo_frame (upd := fun a b => { a with swq := b.swq }) s (fun _ => rfl)
    (fun a b c h h' => by rw [h', h]) fun b s => ?_
  split
  · exact swqPush_frame _ _
  · rfl

theorem priorityStep_frame (e : PriorityEntry) (s : State) :
    priorityStep e s = { s with solq := (priorityStep e s).solq } := by
  unfold priorityStep
  simp only
  split
  · exact solPushPriority_frame _ _ _
  · rfl

theorem priorityScan_frame (s : State) : priorityScan s = { s with solq := (priorityScan s).solq } := by
  unfold priorityScan
  generalize s.cfg.priorityTable = es
  induction es generalizing s with
  | nil => rfl
  | cons e rest ih => rw [List.foldl_cons, ih, priorityStep_frame]

theorem switchScan_frame (s : State) :
    switchScan s =
      { s with swNow := (switchScan s).swNow, swM1 := (switchScan s).swM1, swM2 := (switchScan s).swM2,
               swq := (switchScan s).swq, solq := (switchScan s).solq, bus := (switchScan s).bus } := by
  have h1 : ∀ n s, forUpTo n swSampleGroup s =
      { s with swNow := (forUpTo n swSampleGroup s).swNow, swM1 := (forUpTo n swSampleGroup s).swM1,
               swM2 := (forUpTo n swSampleGroup s).swM2, bus := (forUpTo n swSampleGroup s).bus } := fun n s =>
    forUpTo_frame (upd := fun a b => { a with swNow := b.swNow, swM1 := b.swM1, swM2 := b.swM2, bus := b.bus }) s
      (fun _ => rfl) (fun a b c h h' => by rw [h', h]) swSampleGroup_frame
  have h2 : ∀ n s, forUpTo n swEnqueueGroup s = { s with swq := (forUpTo n swEnqueueGroup s).swq } := fun n s =>
    forUpTo_frame (upd := fun a b => { a with swq := b.swq }) s
      (fun _ => rfl) (fun a b c h h' => by rw [h', h]) swEnqueueGroup_frame
  unfold switchScan
  simp only
  rw [priorityScan_frame, h2, h1]

theorem upDownDebounce_frame (s : State) :
    upDownDebounce s =
      { s with udTimer := (upDownDebounce s).udTimer, udEvent := (upDownDebounce s).udEvent,
               bus := (upDownDebounce s).bus } := by
  unfold upDownDebounce
  simp only
  split
  · rfl
  · split <;> rfl

theorem scanPass_frame (s : State) :
    scanPass s =
      { s with lampBank := (scanPass s).lampBank, lampCycle := (scanPass s).lampCycle,
               selfTestLevel := (scanPass s).selfTestLevel, swNow := (scanPass s).swNow, swM1 := (scanPass s).swM1,
               swM2 := (scanPass s).swM2, swq := (scanPass s).swq, solq := (scanPass s).solq, bus := (scanPass s).bus,
               scanCount := s.scanCount + 1#32 } := by
  unfold scanPass
  simp only
  rw [switchScan_frame, selfTestRead_frame, lampStrobe_frame]

theorem actuatePass_frame (s : State) :
    actuatePass s = { s with solq := s.solq.popped, sndq := s.sndq.popped, bus := (actuatePass s).bus } := by
  unfold actuatePass
  rw [soundActuate_frame, solenoidActuate_frame]

/-- The fields a firing writes (R652): the phase flips, the firing is counted, and the scan too in phase A. -/
theorem firing_frame (s : State) :
    firing s =
      { s with
        phase := s.phase.other, tickCount := s.tickCount + 1#32, scanCount := (firing s).scanCount
        dispPos := (firing s).dispPos, lampBank := (firing s).lampBank, lampCycle := (firing s).lampCycle
        selfTestLevel := (firing s).selfTestLevel, swNow := (firing s).swNow, swM1 := (firing s).swM1
        swM2 := (firing s).swM2, swq := (firing s).swq, solq := (firing s).solq, sndq := (firing s).sndq
        udTimer := (firing s).udTimer, udEvent := (firing s).udEvent, bus := (firing s).bus } := by
  unfold firing
  simp only
  rw [upDownDebounce_frame, displayStrobe_frame]
  cases h : s.phase with
  | A => simp only; rw [scanPass_frame]
  | B => simp only; rw [actuatePass_frame]

theorem selfCheckFrom_frame (es : List SelfCheckEntry) : ∀ (k : Nat) (m : Byte) (s : State),
    (selfCheckFrom es k (m, s)).2 = { s with bus := (selfCheckFrom es k (m, s)).2.bus } := by
  induction es with
  | nil => intro k m s; rfl
  | cons e rest ih => intro k m s; rw [selfCheckFrom, ih]; rfl

end Sys2Proof.Laws
end

