-- ==== Sys2Proof/Laws/Bus.lean ====
section
/-! SUPPORT. What each procedure of a firing leaves on the bus: the transactions it appends and the draws it uses up. -/

namespace Sys2Proof.Laws

open Sys2Proof.Machine

theorem drawAt_zero (b : Bus) : drawAt b 0 = b.draw := rfl

/-- A write uses up no draw (R204). -/
theorem drawAt_write (b : Bus) (a : Nat) (v : Byte) (k : Nat) : drawAt (b.write a v) k = drawAt b k := rfl

/-- A read uses up one draw. -/
theorem drawAt_read (b : Bus) (a k : Nat) : drawAt (b.read a) k = drawAt b (k + 1) := by
  simp only [drawAt, Bus.read, List.drop_tail]
  congr 2
  omega

theorem lampStrobe_bus (s : State) :
    (lampStrobe s).bus =
      (s.bus.write s.cfg.lampSelectAddr.toNat (BitVec.ofNat 8 s.lampBank)).write s.cfg.lampDataAddr.toNat
        (lampData s s.lampBank) := by
  unfold lampStrobe
  simp only
  split <;> rfl

theorem selfTestRead_bus (s : State) : (selfTestRead s).bus = s.bus.read s.cfg.selfTestLine.addr.toNat := by
  unfold selfTestRead
  simp only
  split
  · rw [swqPush_frame]; rfl
  · rfl

theorem upDownDebounce_bus (s : State) : (upDownDebounce s).bus = s.bus.read s.cfg.udLine.addr.toNat := by
  unfold upDownDebounce
  simp only
  split <;> [rfl; split <;> rfl]

/-- The first `n` groups of R402: each writes its strobe and reads its return line. -/
theorem swSampleGroups_bus (s : State) (n : Nat) :
    (forUpTo n swSampleGroup s).cfg = s.cfg ∧
    (forUpTo n swSampleGroup s).bus.trace = s.bus.trace ++ ((List.range n).flatMap fun g =>
      [.write s.cfg.swStrobeAddr.toNat (s.cfg.swStrobeValue.getD g 0#8),
       .read s.cfg.swReturnAddr.toNat (drawAt s.bus g)]) ∧
    ∀ k, drawAt (forUpTo n swSampleGroup s).bus k = drawAt s.bus (n + k) := by
  induction n with
  | zero => simp
  | succ n ih =>
    obtain ⟨h1, h2, h3⟩ := ih
    rw [forUpTo_succ]
    generalize forUpTo n swSampleGroup s = u at *
    refine ⟨by simp [swSampleGroup, swShift, h1], ?_, fun k => ?_⟩
    · simp only [swSampleGroup, swShift, busRead_bus, busWrite_bus, settle_eq, busWrite_cfg, h1, read_trace, write_trace,
        ← drawAt_zero, drawAt_write, h2, h3, List.range_succ, List.flatMap_append, List.flatMap_singleton]
      simp
    · simp only [swSampleGroup, swShift, busRead_bus, busWrite_bus, settle_eq, drawAt_read, drawAt_write, h3]
      congr 1
      omega

/-- Queueing events and pulses issues no transaction. -/
theorem switchScan_bus (s : State) : (switchScan s).bus = (forUpTo s.cfg.numSwGroups swSampleGroup s).bus := by
  unfold switchScan
  simp only
  rw [priorityScan_frame]
  exact forUpTo_field (·.bus) _ fun g s => by rw [swEnqueueGroup_frame]

/-- The writes of R462, low byte first; no draw is used up. -/
theorem solWrite_bus (pat : U32) (s : State) :
    (solWrite pat s).bus.trace = s.bus.trace ++ ((List.range s.cfg.nsolb).map fun i =>
      .write (busAddrPlus s.cfg s.cfg.solAddr i) (pat.extractLsb' (8 * i) 8)) ∧
    ∀ k, drawAt (solWrite pat s).bus k = drawAt s.bus k := by
  have h : ∀ n, (forUpTo n (fun i s => busWrite (busAddrPlus s.cfg s.cfg.solAddr i) (pat.extractLsb' (8 * i) 8) s)
      s).cfg = s.cfg ∧
      (forUpTo n (fun i s => busWrite (busAddrPlus s.cfg s.cfg.solAddr i) (pat.extractLsb' (8 * i) 8) s) s).bus.trace =
        s.bus.trace ++ ((List.range n).map fun i =>
          .write (busAddrPlus s.cfg s.cfg.solAddr i) (pat.extractLsb' (8 * i) 8)) ∧
      ∀ k, drawAt (forUpTo n (fun i s => busWrite (busAddrPlus s.cfg s.cfg.solAddr i) (pat.extractLsb' (8 * i) 8) s)
        s).bus k = drawAt s.bus k := by
    intro n
    induction n with
    | zero => simp
    | succ n ih => rw [forUpTo_succ]; simp [ih.1, ih.2.1, ih.2.2, List.range_succ, drawAt_write]
  exact (h _).2

end Sys2Proof.Laws
end

