-- ==== Sys2Proof/Laws/Decode.lean ====
section
/-! SUPPORT. What the parts of the decoder and the encoder do: byte order, formats, the opcode map. -/

namespace Sys2Proof.Laws

/-- A u16 put together from its own bytes. -/
theorem le16_bytes (v : U16) : le16 (v.extractLsb' 0 8) (v.extractLsb' 8 8) = v := by
  apply BitVec.eq_of_getLsbD_eq
  intro i hi
  simp only [le16, BitVec.getLsbD_append, BitVec.getLsbD_extractLsb']
  split
  · simp; omega
  · rw [show 8 + (i - 8) = i by omega]; simp; intro; omega

/-- A u32 put together from its own bytes. -/
theorem le32_bytes (v : U32) :
    le32 (v.extractLsb' 0 8) (v.extractLsb' 8 8) (v.extractLsb' 16 8) (v.extractLsb' 24 8) = v := by
  apply BitVec.eq_of_getLsbD_eq
  intro i hi
  simp only [le32, BitVec.getLsbD_append, BitVec.getLsbD_extractLsb']
  split
  · simp; omega
  · split
    · rw [show 8 + (i - 8) = i by omega]; simp; intro; omega
    · split
      · rw [show 16 + (i - 8 - 8) = i by omega]; simp; intro; omega
      · rw [show 24 + (i - 8 - 8 - 8) = i by omega]; simp; intro; omega

/-- The bytes of a u16 that was put together from two. -/
theorem bytes16_le (a b : Byte) : bytes16 (le16 a b) = [a, b] := by
  simp only [bytes16, le16]
  refine congrArg₂ _ ?_ (congrArg₂ _ ?_ rfl)
  all_goals
    apply BitVec.eq_of_getLsbD_eq
    intro i hi
    simp only [BitVec.getLsbD_append, BitVec.getLsbD_extractLsb', hi, decide_true, Bool.true_and]
    repeat' split
    all_goals first | omega | (congr 1; omega)

/-- The bytes of a u32 that was put together from four. -/
theorem bytes32_le (a b c d : Byte) : bytes32 (le32 a b c d) = [a, b, c, d] := by
  simp only [bytes32, le32]
  refine congrArg₂ _ ?_ (congrArg₂ _ ?_ (congrArg₂ _ ?_ (congrArg₂ _ ?_ rfl)))
  all_goals
    apply BitVec.eq_of_getLsbD_eq
    intro i hi
    simp only [BitVec.getLsbD_append, BitVec.getLsbD_extractLsb', hi, decide_true, Bool.true_and]
    repeat' split
    all_goals first | omega | (congr 1; omega)

/-- The bytes a format was read from are those it is written as. -/
theorem emit_parse {F : Format} {rest : List Byte} {o : Operands} (h : F.parse rest = some o) : F.emit o = rest := by
  cases F <;> simp only [Format.parse] at h <;> split at h <;> simp at h <;> subst h <;>
    simp [Format.emit, bytes32_le, bytes16_le]

/-- A format is read exactly from the frames of its length (R301). -/
theorem parse_none (F : Format) (rest : List Byte) : F.parse rest = none ↔ rest.length + 1 ≠ F.length := by
  cases F <;> simp only [Format.parse, Format.length]
  all_goals
    match rest with
    | [] => simp
    | [_] => simp
    | [_, _] => simp
    | [_, _, _] => simp
    | [_, _, _, _] => simp
    | [_, _, _, _, _] => simp
    | [_, _, _, _, _, _] => simp
    | [_, _, _, _, _, _, _] => simp
    | _ :: _ :: _ :: _ :: _ :: _ :: _ :: _ :: _ => simp

/-- A row is found by its opcode. -/
@[simp] theorem ofOpcode_opcode (k : Mnemonic) : Mnemonic.ofOpcode k.opcode = some k := by
  cases k <;> rfl

/-- Only a row's own opcode finds it. -/
theorem opcode_of_ofOpcode {op : Byte} {k : Mnemonic} (h : Mnemonic.ofOpcode op = some k) : k.opcode = op := by
  simpa using List.find?_some h

@[simp] theorem build_mnemonic (k : Mnemonic) (o : Operands) : (k.build o).mnemonic = k := by
  cases k <;> rfl

/-- A row's command is written with the operands it was built from, as far as its format has them. -/
@[simp] theorem emit_build (k : Mnemonic) (o : Operands) : k.format.emit (k.build o).operands = k.format.emit o := by
  cases k <;> rfl

end Sys2Proof.Laws
end

