-- ==== Sys2Proof/Laws/Memory.lean ====
section
/-! SUPPORT. The bytes last written on the bus: read after write, and the canonical form. -/

namespace Sys2Proof.Laws

open Sys2Proof.Machine

/-- Reading a location after writing one: the written byte there, what was there before elsewhere. -/
theorem read_write (m : Memory) (a b : Nat) (v : Byte) :
    Memory.read (Memory.write m a v) b = if b = a then some v else Memory.read m b := by
  induction m with
  | nil => by_cases h : b = a <;> simp [Memory.write, Memory.read, h]
  | cons c rest ih =>
    obtain ⟨d, w⟩ := c
    unfold Memory.write
    split
    · by_cases h : b = a <;> simp [Memory.read, h]
    · split
      · rename_i h1 h2
        subst h2
        by_cases h : b = a <;> simp [Memory.read, h]
      · simp only [Memory.read, ih]
        split <;> split <;> simp_all

/-- A property of every address holds after a write if it held before and holds of the written address. -/
theorem write_forall (P : Nat → Prop) (m : Memory) (a : Nat) (v : Byte) (hm : ∀ c ∈ m, P c.1) (ha : P a) :
    ∀ c ∈ Memory.write m a v, P c.1 := by
  induction m with
  | nil => simpa [Memory.write] using ha
  | cons d rest ih =>
    obtain ⟨b, w⟩ := d
    simp only [List.forall_mem_cons] at hm
    unfold Memory.write
    split
    · simpa [ha] using hm
    · split
      · simpa [ha] using hm.2
      · simpa using ⟨hm.1, fun c d h => ih hm.2 (c, d) h⟩

/-- A write keeps the canonical form. -/
theorem write_wf (m : Memory) (a : Nat) (v : Byte) (h : Memory.wf m = true) :
    Memory.wf (Memory.write m a v) = true := by
  induction m with
  | nil => rfl
  | cons c rest ih =>
    obtain ⟨b, w⟩ := c
    simp only [Memory.wf, Bool.and_eq_true, List.all_eq_true, decide_eq_true_eq] at h
    unfold Memory.write
    split
    · rename_i hlt
      simp only [Memory.wf, Bool.and_eq_true, List.all_eq_true, decide_eq_true_eq, List.forall_mem_cons]
      exact ⟨⟨hlt, fun c hc => lt_trans hlt (h.1 c hc)⟩, h.1, h.2⟩
    · split
      · rename_i _ heq
        subst heq
        simpa [Memory.wf] using h
      · simp only [Memory.wf, Bool.and_eq_true, List.all_eq_true, decide_eq_true_eq]
        exact ⟨write_forall (b < ·) rest a v h.1 (by omega), ih h.2⟩

end Sys2Proof.Laws
end

