-- ==== Sys2Proof/Laws/PerInstr.lean ====
section
/-! SUPPORT. Statements about every instruction as syntax, one lemma a constructor. -/

namespace Sys2Proof.Laws

/-- A command's frame has the length of its format (R301, R307). -/
def FrameLength.Statement (i : Instr) : Prop := (encode i).length = i.mnemonic.format.length

/-- A command's opcode is found in the opcode map, and names its row (R305). -/
def OpcodeFound.Statement (i : Instr) : Prop := Mnemonic.ofOpcode (encode i).op = some i.mnemonic

theorem FrameLength.reset : FrameLength.Statement .reset := rfl
theorem FrameLength.selfCheck : FrameLength.Statement .selfCheck := rfl
theorem FrameLength.irqSuspend : FrameLength.Statement .irqSuspend := rfl
theorem FrameLength.irqResume : FrameLength.Statement .irqResume := rfl
theorem FrameLength.update (t : U32) : FrameLength.Statement (.update t) := rfl
theorem FrameLength.readStatus : FrameLength.Statement .readStatus := rfl
theorem FrameLength.readUpdown : FrameLength.Statement .readUpdown := rfl
theorem FrameLength.pullEvent : FrameLength.Statement .pullEvent := rfl
theorem FrameLength.readLevel (a : Byte) : FrameLength.Statement (.readLevel a) := rfl
theorem FrameLength.pushPulsed (a : Byte) (b : Byte) (c : Byte) : FrameLength.Statement (.pushPulsed a b c) := rfl
theorem FrameLength.pushPriority (a : Byte) (b : Byte) : FrameLength.Statement (.pushPriority a b) := rfl
theorem FrameLength.pushTimed (a : Byte) (b : Byte) (t : U32) (c : Byte) : FrameLength.Statement (.pushTimed a b t c) := rfl
theorem FrameLength.setContinuous (a : Byte) (b : Byte) : FrameLength.Statement (.setContinuous a b) := rfl
theorem FrameLength.solDisable : FrameLength.Statement .solDisable := rfl
theorem FrameLength.solEnable : FrameLength.Statement .solEnable := rfl
theorem FrameLength.readContMask : FrameLength.Statement .readContMask := rfl
theorem FrameLength.setLamp (a : Byte) (b : Byte) (c : Byte) (m : U16) : FrameLength.Statement (.setLamp a b c m) := rfl
theorem FrameLength.readLampState (a : Byte) : FrameLength.Statement (.readLampState a) := rfl
theorem FrameLength.readLampDim (a : Byte) : FrameLength.Statement (.readLampDim a) := rfl
theorem FrameLength.readLampFlash (a : Byte) : FrameLength.Statement (.readLampFlash a) := rfl
theorem FrameLength.lampsOffAll : FrameLength.Statement .lampsOffAll := rfl
theorem FrameLength.flashAll (t : U32) : FrameLength.Statement (.flashAll t) := rfl
theorem FrameLength.setDimDivisors (a : Byte) (b : Byte) : FrameLength.Statement (.setDimDivisors a b) := rfl
theorem FrameLength.setDigits (a : Byte) (v : U32) (b : Byte) (c : Byte) : FrameLength.Statement (.setDigits a v b c) := rfl
theorem FrameLength.setBlankMask (a : Byte) (b : Byte) : FrameLength.Statement (.setBlankMask a b) := rfl
theorem FrameLength.setCredits (a : Byte) (b : Byte) (c : Byte) : FrameLength.Statement (.setCredits a b c) := rfl
theorem FrameLength.setBip (a : Byte) (b : Byte) (c : Byte) : FrameLength.Statement (.setBip a b c) := rfl
theorem FrameLength.pushSound (a : Byte) : FrameLength.Statement (.pushSound a) := rfl
theorem FrameLength.pushTimedSound (a : Byte) (t : U32) : FrameLength.Statement (.pushTimedSound a t) := rfl
theorem FrameLength.setSoundRange (a : Byte) (b : Byte) : FrameLength.Statement (.setSoundRange a b) := rfl

theorem OpcodeFound.reset : OpcodeFound.Statement .reset := rfl
theorem OpcodeFound.selfCheck : OpcodeFound.Statement .selfCheck := rfl
theorem OpcodeFound.irqSuspend : OpcodeFound.Statement .irqSuspend := rfl
theorem OpcodeFound.irqResume : OpcodeFound.Statement .irqResume := rfl
theorem OpcodeFound.update (t : U32) : OpcodeFound.Statement (.update t) := rfl
theorem OpcodeFound.readStatus : OpcodeFound.Statement .readStatus := rfl
theorem OpcodeFound.readUpdown : OpcodeFound.Statement .readUpdown := rfl
theorem OpcodeFound.pullEvent : OpcodeFound.Statement .pullEvent := rfl
theorem OpcodeFound.readLevel (a : Byte) : OpcodeFound.Statement (.readLevel a) := rfl
theorem OpcodeFound.pushPulsed (a : Byte) (b : Byte) (c : Byte) : OpcodeFound.Statement (.pushPulsed a b c) := rfl
theorem OpcodeFound.pushPriority (a : Byte) (b : Byte) : OpcodeFound.Statement (.pushPriority a b) := rfl
theorem OpcodeFound.pushTimed (a : Byte) (b : Byte) (t : U32) (c : Byte) : OpcodeFound.Statement (.pushTimed a b t c) := rfl
theorem OpcodeFound.setContinuous (a : Byte) (b : Byte) : OpcodeFound.Statement (.setContinuous a b) := rfl
theorem OpcodeFound.solDisable : OpcodeFound.Statement .solDisable := rfl
theorem OpcodeFound.solEnable : OpcodeFound.Statement .solEnable := rfl
theorem OpcodeFound.readContMask : OpcodeFound.Statement .readContMask := rfl
theorem OpcodeFound.setLamp (a : Byte) (b : Byte) (c : Byte) (m : U16) : OpcodeFound.Statement (.setLamp a b c m) := rfl
theorem OpcodeFound.readLampState (a : Byte) : OpcodeFound.Statement (.readLampState a) := rfl
theorem OpcodeFound.readLampDim (a : Byte) : OpcodeFound.Statement (.readLampDim a) := rfl
theorem OpcodeFound.readLampFlash (a : Byte) : OpcodeFound.Statement (.readLampFlash a) := rfl
theorem OpcodeFound.lampsOffAll : OpcodeFound.Statement .lampsOffAll := rfl
theorem OpcodeFound.flashAll (t : U32) : OpcodeFound.Statement (.flashAll t) := rfl
theorem OpcodeFound.setDimDivisors (a : Byte) (b : Byte) : OpcodeFound.Statement (.setDimDivisors a b) := rfl
theorem OpcodeFound.setDigits (a : Byte) (v : U32) (b : Byte) (c : Byte) : OpcodeFound.Statement (.setDigits a v b c) := rfl
theorem OpcodeFound.setBlankMask (a : Byte) (b : Byte) : OpcodeFound.Statement (.setBlankMask a b) := rfl
theorem OpcodeFound.setCredits (a : Byte) (b : Byte) (c : Byte) : OpcodeFound.Statement (.setCredits a b c) := rfl
theorem OpcodeFound.setBip (a : Byte) (b : Byte) (c : Byte) : OpcodeFound.Statement (.setBip a b c) := rfl
theorem OpcodeFound.pushSound (a : Byte) : OpcodeFound.Statement (.pushSound a) := rfl
theorem OpcodeFound.pushTimedSound (a : Byte) (t : U32) : OpcodeFound.Statement (.pushTimedSound a t) := rfl
theorem OpcodeFound.setSoundRange (a : Byte) (b : Byte) : OpcodeFound.Statement (.setSoundRange a b) := rfl

end Sys2Proof.Laws
end

