-- ==== Sys2Proof/Laws/Ring.lean ====
section
/-! SUPPORT. What a ring of R124 holds after each of its operations: a push at the back appends to the entries, a push at
the front puts in front, a pop takes the first, and a push fails exactly when CAP − 1 entries are held. -/

namespace Sys2Proof.Laws

open Sys2Proof.Machine

/-- A remainder of a number below twice the divisor. -/
theorem mod_below_twice {x n : Nat} (h : x < 2 * n) : x % n = if x < n then x else x - n := by
  split
  · exact Nat.mod_eq_of_lt ‹_›
  · rw [Nat.mod_eq_sub_mod (by omega), Nat.mod_eq_of_lt (by omega)]

theorem wf_iff (q : Ring) (cap : Nat) : q.wf cap = true ↔ q.cap = cap ∧ q.head < cap ∧ q.tail < cap := by
  simp [Ring.wf, Ring.cap, and_assoc]

/-- How many entries a ring holds, without a remainder. -/
theorem count_eq {q : Ring} {cap : Nat} (h : q.wf cap = true) :
    q.count = if q.head ≤ q.tail then q.tail - q.head else q.tail + cap - q.head := by
  obtain ⟨rfl, h1, h2⟩ := (wf_iff q cap).1 h
  rw [Ring.count, mod_below_twice (by omega)]
  split <;> split <;> omega

theorem count_lt {q : Ring} {cap : Nat} (h : q.wf cap = true) : q.count < cap := by
  have := count_eq h
  obtain ⟨rfl, h1, h2⟩ := (wf_iff q cap).1 h
  split at this <;> omega

/-- The next tail, without a remainder. -/
theorem next_eq {n i : Nat} (h : i < n) : (i + 1) % n = if i + 1 < n then i + 1 else 0 := by
  rw [mod_below_twice (by omega)]
  split <;> omega

/-- A ring is full when it holds CAP − 1 entries. -/
theorem full_iff {q : Ring} {cap : Nat} (h : q.wf cap = true) : q.full = true ↔ q.count = cap - 1 := by
  have hc := count_eq h
  obtain ⟨rfl, h1, h2⟩ := (wf_iff q cap).1 h
  rw [Ring.full, beq_iff_eq, next_eq h2, hc]
  split <;> split <;> omega

theorem empty_iff {q : Ring} {cap : Nat} (h : q.wf cap = true) : q.empty = true ↔ q.count = 0 := by
  have hc := count_eq h
  obtain ⟨rfl, h1, h2⟩ := (wf_iff q cap).1 h
  rw [Ring.empty, beq_iff_eq, hc]
  split <;> omega

@[simp] theorem entries_length (q : Ring) : q.entries.length = q.count := by simp [Ring.entries]

theorem emptyOf_wf {cap : Nat} (h : 0 < cap) : (Ring.emptyOf cap).wf cap = true := by
  simp [wf_iff, Ring.emptyOf, Ring.cap, h]

theorem emptyOf_entries (cap : Nat) : (Ring.emptyOf cap).entries = [] := by
  simp [Ring.entries, Ring.emptyOf, Ring.count, Ring.cap]

/-- The entries of two rings that agree on the places the first holds. -/
theorem entries_congr {q q' : Ring} (hn : q'.count = q.count)
    (h : ∀ k < q.count, q'.buf.getD ((q'.head + k) % q'.cap) 0#8 = q.buf.getD ((q.head + k) % q.cap) 0#8) :
    q'.entries = q.entries := by
  simp only [Ring.entries, hn]
  exact List.map_congr_left fun k hk => h k (List.mem_range.1 hk)

theorem getD_set (l : List Byte) (i j : Nat) (v : Byte) :
    (l.set i v).getD j 0#8 = if j = i ∧ j < l.length then v else l.getD j 0#8 := by
  simp only [List.getD_eq_getElem?_getD, List.getElem?_set]
  by_cases h : i = j
  · subst h; by_cases h2 : i < l.length <;> simp [h2]
  · rw [if_neg h, if_neg (fun h' => h h'.1.symm)]

/-- A failed push at the back is a full ring. -/
theorem pushBack_none {q : Ring} {cap : Nat} {v : Byte} (h : q.wf cap = true) :
    q.pushBack v = none ↔ q.count = cap - 1 := by
  rw [← full_iff h, Ring.pushBack]
  split <;> simp_all

/-- A push at the back that succeeds appends one entry. -/
theorem pushBack_some {q q' : Ring} {cap : Nat} {v : Byte} (h : q.wf cap = true) (hp : q.pushBack v = some q') :
    q'.wf cap = true ∧ q'.entries = q.entries ++ [v] ∧ q'.count = q.count + 1 := by
  have hnf : ¬ q.count = cap - 1 := by rw [← pushBack_none (v := v) h, hp]; simp
  have hc := count_eq h
  have hlt := count_lt h
  obtain ⟨hcap, h1, h2⟩ := (wf_iff q cap).1 h
  rw [Ring.pushBack] at hp
  split at hp
  · cases hp
  · simp only [Option.some.injEq] at hp
    have hcap' : q'.cap = cap := by subst hp; simpa [Ring.cap] using hcap
    have ht : q'.tail = if q.tail + 1 < cap then q.tail + 1 else 0 := by
      subst hp; simp only [hcap]; exact next_eq h2
    have hh : q'.head = q.head := by subst hp; rfl
    have hb : q'.buf = q.buf.set q.tail v := by subst hp; rfl
    have hwf : q'.wf cap = true := (wf_iff q' cap).2 ⟨hcap', by omega, by rw [ht]; split <;> omega⟩
    have hc' := count_eq hwf
    have hcnt : q'.count = q.count + 1 := by
      rw [hc', hh, hc, ht]
      rw [hc] at hnf
      repeat' split
      all_goals (split at hnf <;> omega)
    refine ⟨hwf, ?_, hcnt⟩
    have hlen : q.buf.length = cap := hcap
    simp only [Ring.entries, hcnt, List.range_succ, List.map_append, List.map_cons, List.map_nil]
    congr 1
    · refine List.map_congr_left fun k hk => ?_
      have hk := List.mem_range.1 hk
      rw [hb, hh, hcap', hcap, getD_set, if_neg]
      rintro ⟨he, -⟩
      rw [mod_below_twice (by omega)] at he
      rw [hc] at hk
      split at he <;> split at hk <;> omega
    · rw [hb, hh, hcap', getD_set, if_pos]
      rw [mod_below_twice (by omega), hlen]
      rw [hc] at hlt ⊢
      constructor <;> repeat' split
      all_goals omega

/-- A failed push at the front is a full ring. -/
theorem pushFront_none {q : Ring} {cap : Nat} {v : Byte} (h : q.wf cap = true) :
    q.pushFront v = none ↔ q.count = cap - 1 := by
  rw [← full_iff h, Ring.pushFront]
  split <;> simp_all

/-- A push at the front that succeeds puts one entry before the others. -/
theorem pushFront_some {q q' : Ring} {cap : Nat} {v : Byte} (h : q.wf cap = true) (hp : q.pushFront v = some q') :
    q'.wf cap = true ∧ q'.entries = v :: q.entries ∧ q'.count = q.count + 1 := by
  have hnf : ¬ q.count = cap - 1 := by rw [← pushFront_none (v := v) h, hp]; simp
  have hc := count_eq h
  have hlt := count_lt h
  obtain ⟨hcap, h1, h2⟩ := (wf_iff q cap).1 h
  rw [Ring.pushFront] at hp
  split at hp
  · cases hp
  · simp only [Option.some.injEq] at hp
    have hcap' : q'.cap = cap := by subst hp; simpa [Ring.cap] using hcap
    have ht : q'.tail = q.tail := by subst hp; rfl
    have hh : q'.head = if q.head = 0 then cap - 1 else q.head - 1 := by
      subst hp; simp only [hcap]
      rw [mod_below_twice (by omega)]
      split <;> split <;> omega
    have hb : q'.buf = q.buf.set q'.head v := by subst hp; rfl
    have hwf : q'.wf cap = true := (wf_iff q' cap).2 ⟨hcap', by rw [hh]; split <;> omega, by omega⟩
    have hc' := count_eq hwf
    have hcnt : q'.count = q.count + 1 := by
      rw [hc', hh, hc, ht]
      rw [hc] at hnf
      repeat' split
      all_goals (split at hnf <;> omega)
    refine ⟨hwf, ?_, hcnt⟩
    have hlen : q.buf.length = cap := hcap
    have hhlt : q'.head < cap := ((wf_iff q' cap).1 hwf).2.1
    simp only [Ring.entries, hcnt, List.range_succ_eq_map, List.map_cons, List.map_map]
    congr 1
    · rw [hb, hcap', Nat.add_zero, Nat.mod_eq_of_lt hhlt, getD_set, if_pos ⟨rfl, by omega⟩]
    · refine List.map_congr_left fun k hk => ?_
      have hk := List.mem_range.1 hk
      have hmod : (q'.head + (k + 1)) % cap = (q.head + k) % cap := by
        rw [hh]
        split
        · rename_i h0
          rw [h0, Nat.zero_add, show cap - 1 + (k + 1) = k + cap by omega, Nat.add_mod_right]
        · congr 1; omega
      simp only [Function.comp, Nat.succ_eq_add_one]
      rw [hb, hcap', hcap, getD_set, if_neg, hmod]
      rintro ⟨he, -⟩
      rw [hmod, mod_below_twice (by omega), hh] at he
      rw [hc] at hk
      split at he <;> split at he <;> split at hk <;> omega

/-- A pop that fails is an empty ring. -/
theorem pop_none {q : Ring} {cap : Nat} (h : q.wf cap = true) : q.pop = none ↔ q.entries = [] := by
  rw [← List.length_eq_zero_iff, entries_length, ← empty_iff h, Ring.pop]
  split <;> simp_all

/-- A pop that succeeds takes the first entry. -/
theorem pop_some {q q' : Ring} {cap : Nat} {x : Byte} (h : q.wf cap = true) (hp : q.pop = some (x, q')) :
    q'.wf cap = true ∧ q.entries = x :: q'.entries := by
  have hne : ¬ q.count = 0 := by
    rw [← empty_iff h]; intro he; simp [Ring.pop, he] at hp
  have hc := count_eq h
  have hlt := count_lt h
  obtain ⟨hcap, h1, h2⟩ := (wf_iff q cap).1 h
  rw [Ring.pop] at hp
  split at hp
  · cases hp
  · simp only [Option.some.injEq, Prod.mk.injEq] at hp
    obtain ⟨rfl, hq⟩ := hp
    have hcap' : q'.cap = cap := by subst hq; exact hcap
    have ht : q'.tail = q.tail := by subst hq; rfl
    have hh : q'.head = if q.head + 1 < cap then q.head + 1 else 0 := by
      subst hq; simp only [hcap]; exact next_eq h1
    have hb : q'.buf = q.buf := by subst hq; rfl
    have hwf : q'.wf cap = true := (wf_iff q' cap).2 ⟨hcap', by rw [hh]; split <;> omega, by omega⟩
    have hc' := count_eq hwf
    have hcnt : q.count = q'.count + 1 := by
      rw [hc', hh, hc, ht]
      rw [hc] at hne
      repeat' split
      all_goals (split at hne <;> omega)
    refine ⟨hwf, ?_⟩
    simp only [Ring.entries, hcnt, List.range_succ_eq_map, List.map_cons, List.map_map]
    congr 1
    · rw [Nat.add_zero, hcap, Nat.mod_eq_of_lt h1]
    · refine List.map_congr_left fun k hk => ?_
      simp only [Function.comp, Nat.succ_eq_add_one]
      rw [hb, hcap', hcap, hh]
      congr 1
      split
      · congr 1; omega
      · rw [Nat.zero_add, show q.head + (k + 1) = k + cap by omega, Nat.add_mod_right]

/-- The silent push keeps the ring's form; it appends when there is room. -/
theorem pushed_spec {q : Ring} {cap : Nat} (v : Byte) (h : q.wf cap = true) :
    (q.pushed v).wf cap = true ∧
    (q.pushed v).entries = if q.count = cap - 1 then q.entries else q.entries ++ [v] := by
  unfold Ring.pushed
  cases hp : q.pushBack v with
  | none => simp [h, (pushBack_none h).1 hp]
  | some q' =>
    have hs := pushBack_some h hp
    have hn : ¬ q.count = cap - 1 := by rw [← pushBack_none (v := v) h, hp]; simp
    simp [hs.1, hs.2.1, hn]

theorem popped_spec {q : Ring} {cap : Nat} (h : q.wf cap = true) :
    q.popped.wf cap = true ∧ q.popped.entries = q.entries.tail ∧ q.pop.map Prod.fst = q.entries.head? := by
  unfold Ring.popped
  cases hp : q.pop with
  | none => simp [h, (pop_none h).1 hp]
  | some r =>
    obtain ⟨x, q'⟩ := r
    have hs := pop_some h hp
    simp [hs.1, hs.2]

/-- Repeated pushes at the back append as many copies as there is room for (R453). -/
theorem pushBackN_spec {cap : Nat} (v : Byte) (n : Nat) : ∀ {q : Ring}, q.wf cap = true →
    (q.pushBackN v n).wf cap = true ∧
    (q.pushBackN v n).entries = q.entries ++ List.replicate (min n (cap - 1 - q.count)) v := by
  induction n with
  | zero => intro q h; simp [Ring.pushBackN, h]
  | succ n ih =>
    intro q h
    have hlt := count_lt h
    unfold Ring.pushBackN
    cases hp : q.pushBack v with
    | none => simp [h, (pushBack_none h).1 hp]
    | some q' =>
      have hs := pushBack_some h hp
      have hn : ¬ q.count = cap - 1 := by rw [← pushBack_none (v := v) h, hp]; simp
      have hi := ih hs.1
      refine ⟨hi.1, ?_⟩
      simp only [hi.2, hs.2.1, hs.2.2]
      rw [show min (n + 1) (cap - 1 - q.count) = min n (cap - 1 - (q.count + 1)) + 1 by omega, List.replicate_succ]
      simp

/-- Repeated pushes at the front put as many copies as there is room for before the others (R454). -/
theorem pushFrontN_spec {cap : Nat} (v : Byte) (n : Nat) : ∀ {q : Ring}, q.wf cap = true →
    (q.pushFrontN v n).wf cap = true ∧
    (q.pushFrontN v n).entries = List.replicate (min n (cap - 1 - q.count)) v ++ q.entries := by
  induction n with
  | zero => intro q h; simp [Ring.pushFrontN, h]
  | succ n ih =>
    intro q h
    have hlt := count_lt h
    unfold Ring.pushFrontN
    cases hp : q.pushFront v with
    | none => simp [h, (pushFront_none h).1 hp]
    | some q' =>
      have hs := pushFront_some h hp
      have hn : ¬ q.count = cap - 1 := by rw [← pushFront_none (v := v) h, hp]; simp
      have hi := ih hs.1
      refine ⟨hi.1, ?_⟩
      simp only [hi.2, hs.2.1, hs.2.2]
      rw [show min (n + 1) (cap - 1 - q.count) = min n (cap - 1 - (q.count + 1)) + 1 by omega, List.replicate_succ']
      simp

/-- The silent push as a cut: appended, as far as CAP − 1 entries go (R124, R805). -/
theorem pushed_take {q : Ring} {cap : Nat} (v : Byte) (h : q.wf cap = true) :
    (q.pushed v).entries = (q.entries ++ [v]).take (cap - 1) := by
  have hl := count_lt h
  rw [(pushed_spec v h).2]
  split
  · rw [List.take_append, List.take_of_length_le (by simp; omega)]
    simp [*]
  · rw [List.take_of_length_le (by simp; omega)]

/-- Repeated pushes at the back as a cut (R453). -/
theorem pushBackN_take {q : Ring} {cap : Nat} (v : Byte) (n : Nat) (h : q.wf cap = true) :
    (q.pushBackN v n).entries = (q.entries ++ List.replicate n v).take (cap - 1) := by
  have hl := count_lt h
  rw [(pushBackN_spec v n h).2, List.take_append, List.take_of_length_le (by simp; omega)]
  simp [Nat.min_comm]

/-- Two cuts at the same length are one. -/
theorem take_append_take {α : Type} (l m : List α) (c : Nat) : (l.take c ++ m).take c = (l ++ m).take c := by
  rw [List.take_append, List.take_append, List.take_take, Nat.min_self, List.length_take]
  congr 2
  omega

end Sys2Proof.Laws
end

