-- ==== Sys2Proof/Laws/Scan.lean ====
section
/-! SUPPORT. What a scan pass leaves: its transactions, and the switch history. -/

namespace Sys2Proof.Laws

open Sys2Proof.Machine

/-- The transactions of phase A between the display strobe and the up/down line, and the draws they use up (R655). -/
theorem scanPass_bus (s : State) :
    (scanPass s).bus.trace = s.bus.trace ++
      [.write s.cfg.lampSelectAddr.toNat (BitVec.ofNat 8 s.lampBank),
       .write s.cfg.lampDataAddr.toNat (lampData s s.lampBank),
       .read s.cfg.selfTestLine.addr.toNat (drawAt s.bus 0)] ++
      ((List.range s.cfg.numSwGroups).flatMap fun g =>
        [.write s.cfg.swStrobeAddr.toNat (s.cfg.swStrobeValue.getD g 0#8),
         .read s.cfg.swReturnAddr.toNat (drawAt s.bus (g + 1))]) ∧
    ∀ k, drawAt (scanPass s).bus k = drawAt s.bus (s.cfg.numSwGroups + k + 1) := by
  have hb : (scanPass s).bus = (switchScan (selfTestRead (lampStrobe s))).bus := by unfold scanPass; simp only
  have hb' := selfTestRead_bus (lampStrobe s)
  rw [lampStrobe_bus] at hb'
  have hc : (selfTestRead (lampStrobe s)).cfg = s.cfg := by rw [selfTestRead_frame, lampStrobe_frame]
  have hc' : (lampStrobe s).cfg = s.cfg := by rw [lampStrobe_frame]
  obtain ⟨-, h2, h3⟩ := swSampleGroups_bus (selfTestRead (lampStrobe s)) s.cfg.numSwGroups
  rw [hb, switchScan_bus, hc]
  simp only [h2, h3, hb', hc, drawAt_read, drawAt_write, read_trace, write_trace, ← drawAt_zero, hc']
  simp

/-- Place `n` of a list whose first `n` places were replaced, and the list with that place written. -/
theorem replaced_prefix {p q : List Byte} {n : Nat} (hp : p.length = n) (hq : n < q.length) (v : Byte) :
    (p ++ q.drop n).getD n 0#8 = q.getD n 0#8 ∧ (p ++ q.drop n).set n v = p ++ [v] ++ q.drop (n + 1) := by
  rw [List.drop_eq_getElem_cons hq, List.set_append, if_neg (by omega)]
  subst hp
  refine ⟨by simp [List.getD_eq_getElem?_getD, hq], ?_⟩
  rw [Nat.sub_self, List.set_cons_zero, List.append_assoc]
  rfl

/-- The first `n` groups of R402: the histories move on by one and Now takes the samples. -/
theorem swSampleGroups_history {s : State} (h1 : s.swNow.length = s.cfg.numSwGroups)
    (h2 : s.swM1.length = s.cfg.numSwGroups) (h3 : s.swM2.length = s.cfg.numSwGroups) {n : Nat}
    (hn : n ≤ s.cfg.numSwGroups) :
    (forUpTo n swSampleGroup s).swM2 = s.swM1.take n ++ s.swM2.drop n ∧
    (forUpTo n swSampleGroup s).swM1 = s.swNow.take n ++ s.swM1.drop n ∧
    (forUpTo n swSampleGroup s).swNow =
      (List.range n).map (fun g => swSample s.cfg (drawAt s.bus g)) ++ s.swNow.drop n := by
  induction n with
  | zero => simp
  | succ n ih =>
    obtain ⟨a, b, c⟩ := ih (by omega)
    obtain ⟨d, -, e⟩ := swSampleGroups_bus s n
    rw [forUpTo_succ]
    generalize forUpTo n swSampleGroup s = u at *
    have hM2 := replaced_prefix (p := s.swM1.take n) (q := s.swM2) (n := n) (by simp; omega) (by omega)
    have hM1 := replaced_prefix (p := s.swNow.take n) (q := s.swM1) (n := n) (by simp; omega) (by omega)
    have hNow := replaced_prefix (p := (List.range n).map fun g => swSample s.cfg (drawAt s.bus g))
      (q := s.swNow) (n := n) (by simp) (by omega)
    refine ⟨?_, ?_, ?_⟩
    · simp only [swSampleGroup, swShift, busRead_swM2, settle_eq, busWrite_swM2]
      rw [a, b, (hM1 0#8).1, (hM2 _).2, List.take_add_one]
      simp [List.getElem?_eq_getElem (show n < s.swM1.length by omega)]
    · simp only [swSampleGroup, swShift, busRead_swM1, settle_eq, busWrite_swM1]
      rw [b, c, (hNow 0#8).1, (hM1 _).2, List.take_add_one]
      simp [List.getElem?_eq_getElem (show n < s.swNow.length by omega)]
    · simp only [swSampleGroup, swShift, busRead_swNow, settle_eq, busWrite_swNow, busWrite_bus, busRead_cfg,
        busWrite_cfg, d, ← drawAt_zero, drawAt_write, e]
      rw [c, (hNow _).2, List.range_succ]
      simp

/-- Queueing events and pulses leaves the switch history (R403). -/
theorem switchScan_history (s : State) :
    (switchScan s).swM2 = (forUpTo s.cfg.numSwGroups swSampleGroup s).swM2 ∧
    (switchScan s).swM1 = (forUpTo s.cfg.numSwGroups swSampleGroup s).swM1 ∧
    (switchScan s).swNow = (forUpTo s.cfg.numSwGroups swSampleGroup s).swNow := by
  have h : ∀ v : State, forUpTo v.cfg.numSwGroups swEnqueueGroup v =
      { v with swq := (forUpTo v.cfg.numSwGroups swEnqueueGroup v).swq } := fun v =>
    forUpTo_frame (upd := fun a b => { a with swq := b.swq }) v (fun _ => rfl) (fun a b c h h' => by rw [h', h])
      swEnqueueGroup_frame
  unfold switchScan
  simp only
  rw [priorityScan_frame, h]
  exact ⟨rfl, rfl, rfl⟩

end Sys2Proof.Laws
end

