-- ==== Sys2Proof/Machine/Assembler.lean ====
section
/-! DEFINITION. Source text (R308), pseudo-commands (R309) and program notation (R310): from what a programmer writes to
the inputs the machine takes. The fine print of the text is log 14. -/

namespace Sys2Proof.Machine

/-- The mnemonic as R305 spells it. -/
def mnemonicText : Mnemonic → String
  | .reset => "RESET"
  | .selfCheck => "SELF_CHECK"
  | .irqSuspend => "IRQ_SUSPEND"
  | .irqResume => "IRQ_RESUME"
  | .update => "UPDATE"
  | .readStatus => "READ_STATUS"
  | .readUpdown => "READ_UPDOWN"
  | .pullEvent => "PULL_EVENT"
  | .readLevel => "READ_LEVEL"
  | .pushPulsed => "PUSH_PULSED"
  | .pushPriority => "PUSH_PRIORITY"
  | .pushTimed => "PUSH_TIMED"
  | .setContinuous => "SET_CONTINUOUS"
  | .solDisable => "SOL_DISABLE"
  | .solEnable => "SOL_ENABLE"
  | .readContMask => "READ_CONT_MASK"
  | .setLamp => "SET_LAMP"
  | .readLampState => "READ_LAMP_STATE"
  | .readLampDim => "READ_LAMP_DIM"
  | .readLampFlash => "READ_LAMP_FLASH"
  | .lampsOffAll => "LAMPS_OFF_ALL"
  | .flashAll => "FLASH_ALL"
  | .setDimDivisors => "SET_DIM_DIVISORS"
  | .setDigits => "SET_DIGITS"
  | .setBlankMask => "SET_BLANK_MASK"
  | .setCredits => "SET_CREDITS"
  | .setBip => "SET_BIP"
  | .pushSound => "PUSH_SOUND"
  | .pushTimedSound => "PUSH_TIMED_SOUND"
  | .setSoundRange => "SET_SOUND_RANGE"

/-- One operand put under its name in the frame (R301). -/
def putOperand (o : Operands) : OperandName → Nat → Operands
  | .a, n => { o with a := BitVec.ofNat 8 n }
  | .b, n => { o with b := BitVec.ofNat 8 n }
  | .c, n => { o with c := BitVec.ofNat 8 n }
  | .m, n => { o with m := BitVec.ofNat 16 n }
  | .t, n => { o with t := BitVec.ofNat 32 n }

/-- The command of a source command; none where an operand is missing, left over or does not fit (R308). -/
def SourceLine.instr (l : SourceLine) : Option Instr :=
  if l.wellFormed then
    some (l.mnemonic.build ((l.mnemonic.operands.zip l.operands).foldl (fun o x => putOperand o x.1.1 x.2) {}))
  else none

/-- The value of a digit character in base 16, letters of either case. -/
def digitValue (ch : Char) : Option Nat :=
  if '0'.toNat ≤ ch.toNat && ch.toNat ≤ '9'.toNat then some (ch.toNat - '0'.toNat)
  else if 'a'.toNat ≤ ch.toNat && ch.toNat ≤ 'f'.toNat then some (ch.toNat - 'a'.toNat + 10)
  else if 'A'.toNat ≤ ch.toNat && ch.toNat ≤ 'F'.toNat then some (ch.toNat - 'A'.toNat + 10)
  else none

/-- The value of the digits that follow a value already read, in a base. -/
def digitsFrom (base : Nat) : List Char → Nat → Option Nat
  | [], n => some n
  | ch :: rest, n =>
    match digitValue ch with
    | none => none
    | some d => if d < base then digitsFrom base rest (n * base + d) else none

/-- A number: decimal, or hexadecimal after `0x` (R308). -/
def parseNumber : List Char → Option Nat
  | [] => none
  | ['0', 'x'] => none
  | '0' :: 'x' :: digits => digitsFrom 16 digits 0
  | digits => digitsFrom 10 digits 0

/-- Text without the blanks at its ends. -/
def trimBlanks (text : List Char) : List Char :=
  ((text.dropWhile (· == ' ')).reverse.dropWhile (· == ' ')).reverse

/-- The parts of a text between its commas. -/
def splitCommas : List Char → List (List Char)
  | [] => [[]]
  | ch :: rest =>
    match splitCommas rest with
    | [] => [[ch]]
    | part :: parts => if ch == ',' then [] :: part :: parts else (ch :: part) :: parts

/-- Why a line of source text is an error. -/
inductive AsmError where
  | unknownMnemonic
  | badNumber
  | badOperands
deriving DecidableEq, Repr

/-- The numbers of an operand text; none where one of them is no number. -/
def parseOperands (text : List Char) : Option (List Nat) :=
  if trimBlanks text = [] then some []
  else (splitCommas text).mapM fun part => parseNumber (trimBlanks part)

/-- The pseudo-commands as source text (R309): the name, the row it expands to, and that row's operands from its own. -/
def pseudoRows : List (String × Mnemonic × (List Nat → List Nat)) :=
  [("SOL_PULSE", .pushPulsed, fun ops => ops ++ [0]),
   ("SOL_PULSE_OVR", .pushPulsed, fun ops => ops ++ [1]),
   ("SOL_TIMED", .pushTimed, fun ops => ops ++ [0]),
   ("CONT_ON", .setContinuous, fun ops => ops ++ [1]),
   ("CONT_OFF", .setContinuous, fun ops => ops ++ [0]),
   ("LAMP_ON", .setLamp, fun ops => ops ++ [1, 0, 0]),
   ("LAMP_OFF", .setLamp, fun ops => ops ++ [0, 0, 0]),
   ("LAMP_DIM", .setLamp, fun ops => ops.take 1 ++ [1] ++ ops.drop 1 ++ [0]),
   ("LAMP_FLASH", .setLamp, fun ops => ops.take 1 ++ [1, 0] ++ ops.drop 1),
   ("BLANK_DISPLAY", .setBlankMask, fun ops => ops ++ [0]),
   ("SOUND", .pushSound, fun ops => ops)]

/-- The row a source mnemonic names, its own or the one its pseudo-command expands to, with what becomes of the
operands. -/
def findMnemonic (name : List Char) : Option (Mnemonic × (List Nat → List Nat)) :=
  match Mnemonic.all.find? fun k => (mnemonicText k).toList == name with
  | some k => some (k, fun ops => ops)
  | none => (pseudoRows.find? fun r => r.1.toList == name).map Prod.snd

/-- A line of source text (R308, R309): a command, or nothing for a line that is blank before its comment. -/
def assembleLine (line : List Char) : Except AsmError (Option Instr) :=
  let text := trimBlanks (line.takeWhile (· != ';'))
  if text = [] then .ok none
  else
    let name := text.takeWhile (· != ' ')
    match findMnemonic name with
    | none => .error .unknownMnemonic
    | some (k, expand) =>
      match parseOperands (text.drop name.length) with
      | none => .error .badNumber
      | some ops =>
        match SourceLine.instr { mnemonic := k, operands := expand ops } with
        | none => .error .badOperands
        | some i => .ok (some i)

/-- The expansion of a pseudo-command (R309). -/
def expandPseudo : Pseudo → Instr
  | .solPulse id ticks => .pushPulsed id ticks 0#8
  | .solPulseOvr id ticks => .pushPulsed id ticks 1#8
  | .solTimed id ticks t => .pushTimed id ticks t 0#8
  | .contOn id => .setContinuous id 1#8
  | .contOff id => .setContinuous id 0#8
  | .lampOn id => .setLamp id 1#8 0#8 0#16
  | .lampOff id => .setLamp id 0#8 0#8 0#16
  | .lampDim id lvl => .setLamp id 1#8 lvl 0#16
  | .lampFlash id ms => .setLamp id 1#8 0#8 ms
  | .blankDisplay d => .setBlankMask d 0#8
  | .sound v => .pushSound v

/-- `CRITICAL` around some items: IRQ_SUSPEND, the items, IRQ_RESUME (R309). -/
def critical (body : List Item) : List Item := .cmd .irqSuspend :: body ++ [.cmd .irqResume]

/-- The inputs of one item: a command's frame, k timer events for `FIRE ×k`, or the dispatcher's turn (R309, R310). -/
def itemInputs : Item → List Input
  | .cmd i => [.command (encode i)]
  | .pseudo p => [.command (encode (expandPseudo p))]
  | .fire k => List.replicate k .timer
  | .pendingStep => [.pending]

/-- The inputs of a program, in its order. -/
def programInputs (p : List Item) : List Input := p.flatMap itemInputs

end Sys2Proof.Machine
end

