-- ==== Sys2Proof/Tests/Slice0.lean ====
section
/-! SUPPORT. The model's own tests: the frames of every command as the spec encodes them,
    ill-formed configurations and
source commands, one or two steps per command with the results of 95_test_vectors.md, and for every obligation with
hypotheses a state and operands that meet them. -/

namespace Sys2Proof.Tests

open Sys2Proof Sys2Proof.Machine

/-! ### A small configuration: CFG0 of 95_test_vectors.md, with short rings and slot arrays -/

def addr (n : Nat) : BusAddr := BusAddr.of16 (BitVec.ofNat 16 n)

def check55 (n : Nat) : SelfCheckEntry := { addr := addr n, pat := 0x55#8 }

def cfg0 : Config :=
  { Config.default with
    swqCap := 4, solqCap := 6, tsolCap := 3, sndqCap := 4, tsndCap := 2
    numSwGroups := 2, swSelfTest := 16#8, swStrobeValue := [0x01#8, 0x02#8], swActiveLow := false
    swStrobeAddr := addr 0x10, swReturnAddr := addr 0x11
    selfTestLine := { addr := addr 0x12, mask := 0x01#8, activeLow := false }
    udLine := { addr := addr 0x13, mask := 0x01#8, activeLow := false }
    priorityTable := [{ switchNumber := 3#8, solenoidNumber := 7#8, holdTicks := 2#8 }]
    solAddr := addr 0x30, numLampBanks := 2, lampSelectAddr := addr 0x20, lampDataAddr := addr 0x21
    digits := 2, displaySequence := defaultSequence 2, dispSelectAddr := addr 0x40, dispDataAddr := addr 0x41
    soundAddr := addr 0x50, soundSilent := 0x00#8
    selfCheck := #v[check55 0x10, check55 0x20, check55 0x30, check55 0x40, check55 0x50] }

/-- Right after RESET. -/
def s0 : State := State.resetOf cfg0

/-- Running: the interrupt source is not suspended. -/
def live : State := { s0 with irqSuspended := false }

/-- A bus that answers the given bytes first. -/
def busOf (answers : List Byte) : Bus := { trace := [], latched := [], answers := answers, reads := 0 }

def ringOf (cap : Nat) (es : List Byte) : Machine.Ring :=
  { buf := es ++ List.replicate (cap - es.length) 0#8, head := 0, tail := es.length }

/-- Slot 0 registered without override, the others free. -/
def timedSlots (t : U32) (sol count : Byte) : List TimedSol :=
  { active := true, fireAt := t, sol := sol, count := count, ovr := false } :: s0.tsol.drop 1

/-- The outcome is a next state of which `p` holds. -/
def nextIs (o : Host.Outcome State Fault Refusal) (p : State → Bool) : Bool :=
  match o with
  | .next t => p t
  | .fault _ => false
  | .refused _ => false

def isNext (o : Host.Outcome State Fault Refusal) : Bool := nextIs o fun _ => true

def isFault (o : Host.Outcome State Fault Refusal) : Bool :=
  match o with
  | .fault _ => true
  | .next _ => false
  | .refused _ => false

/-- The last response. -/
def answer (t : State) : List Byte := t.responses.getLastD [0xEE#8]

def frame (op : Byte) (rest : List Byte) : Frame := { op := op, rest := rest }

theorem test_cfg0_legal : cfg0.legal = true := by decide
theorem test_default_legal : Config.default.legal = true := by decide

/-! ### Decoding: every command, its frame written out from R301, R302 and R305 -/

theorem test_decode_reset : decode (frame 0b00000000#8 []) = .ok .reset := by decide
theorem test_decode_selfCheck : decode (frame 0b00000001#8 []) = .ok .selfCheck := by decide
theorem test_decode_irqSuspend : decode (frame 0b00000010#8 []) = .ok .irqSuspend := by decide
theorem test_decode_irqResume : decode (frame 0b00000011#8 []) = .ok .irqResume := by decide
theorem test_decode_update :
    decode (frame 0b00000100#8 [0xE8#8, 0x03#8, 0x00#8, 0x00#8]) = .ok (.update 1000#32) := by decide
theorem test_decode_readStatus : decode (frame 0b00000101#8 []) = .ok .readStatus := by decide
theorem test_decode_readUpdown : decode (frame 0b00000110#8 []) = .ok .readUpdown := by decide
theorem test_decode_pullEvent : decode (frame 0b00010000#8 []) = .ok .pullEvent := by decide
theorem test_decode_readLevel : decode (frame 0b00010001#8 [0x0A#8]) = .ok (.readLevel 10#8) := by decide
theorem test_decode_pushPulsed :
    decode (frame 0b00100000#8 [0x03#8, 0x0A#8, 0x01#8]) = .ok (.pushPulsed 3#8 10#8 1#8) := by decide
theorem test_decode_pushPriority :
    decode (frame 0b00100001#8 [0x02#8, 0x01#8]) = .ok (.pushPriority 2#8 1#8) := by decide
theorem test_decode_pushTimed :
    decode (frame 0b00100010#8 [0x05#8, 0x01#8, 0x10#8, 0x27#8, 0x00#8, 0x00#8,
        0x01#8]) = .ok (.pushTimed 5#8 1#8 10000#32 1#8) := by decide
theorem test_decode_setContinuous :
    decode (frame 0b00100011#8 [0x09#8, 0x01#8]) = .ok (.setContinuous 9#8 1#8) := by decide
theorem test_decode_solDisable : decode (frame 0b00100100#8 []) = .ok .solDisable := by decide
theorem test_decode_solEnable : decode (frame 0b00100101#8 []) = .ok .solEnable := by decide
theorem test_decode_readContMask : decode (frame 0b00100110#8 []) = .ok .readContMask := by decide
theorem test_decode_setLamp :
    decode (frame 0b00110000#8 [0x0C#8, 0x01#8, 0x02#8, 0xF4#8, 0x01#8]) = .ok (.setLamp 12#8 1#8 2#8 500#16) :=
        by decide
theorem test_decode_readLampState : decode (frame 0b00110001#8 [0x02#8]) = .ok (.readLampState 2#8) := by decide
theorem test_decode_readLampDim : decode (frame 0b00110010#8 [0x09#8]) = .ok (.readLampDim 9#8) := by decide
theorem test_decode_readLampFlash : decode (frame 0b00110011#8 [0x02#8]) = .ok (.readLampFlash 2#8) := by decide
theorem test_decode_lampsOffAll : decode (frame 0b00110100#8 []) = .ok .lampsOffAll := by decide
theorem test_decode_flashAll :
    decode (frame 0b00110101#8 [0xF4#8, 0x01#8, 0x00#8, 0x80#8]) = .ok (.flashAll 0x800001F4#32) := by decide
theorem test_decode_setDimDivisors :
    decode (frame 0b00110110#8 [0x04#8, 0x03#8]) = .ok (.setDimDivisors 4#8 3#8) := by decide
theorem test_decode_setDigits :
    decode (frame 0b01000000#8 [0x00#8, 0xD2#8, 0x04#8, 0x00#8, 0x00#8, 0x01#8,
        0x02#8]) = .ok (.setDigits 0#8 1234#32 1#8 2#8) := by decide
theorem test_decode_setBlankMask :
    decode (frame 0b01000001#8 [0x02#8, 0xFF#8]) = .ok (.setBlankMask 2#8 255#8) := by decide
theorem test_decode_setCredits :
    decode (frame 0b01000010#8 [0x05#8, 0x01#8, 0x00#8]) = .ok (.setCredits 5#8 1#8 0#8) := by decide
theorem test_decode_setBip :
    decode (frame 0b01000011#8 [0x07#8, 0x00#8, 0x01#8]) = .ok (.setBip 7#8 0#8 1#8) := by decide
theorem test_decode_pushSound : decode (frame 0b01010000#8 [0x0C#8]) = .ok (.pushSound 12#8) := by decide
theorem test_decode_pushTimedSound :
    decode (frame 0b01010001#8 [0x1E#8, 0x64#8, 0x00#8, 0x00#8, 0x00#8]) = .ok (.pushTimedSound 30#8 100#32) :=
        by decide
theorem test_decode_setSoundRange :
    decode (frame 0b01010010#8 [0x0A#8, 0x14#8]) = .ok (.setSoundRange 10#8 20#8) := by decide

theorem test_decode_illegal : decode (frame 0x07#8 []) = .error .illegalOpcode := by decide
/-- The opcode is checked before the length (95_test_vectors.md 2.1). -/
theorem test_decode_illegal_long : decode (frame 0xFF#8 [0x00#8, 0x00#8]) = .error .illegalOpcode := by decide
theorem test_decode_bad_length : decode (frame 0x00#8 [0x00#8]) = .error .badLength := by decide
theorem test_decode_bad_length_short :
    decode (frame 0x22#8 [0x05#8, 0x01#8, 0xE8#8, 0x03#8, 0x00#8]) = .error .badLength := by decide

theorem test_encode_push_timed :
    (encode (.pushTimed 4#8 3#8 1000#32 0#8)).bytes =
      [0x22#8, 0x04#8, 0x03#8, 0xE8#8, 0x03#8, 0x00#8, 0x00#8, 0x00#8] := by decide

/-- Table words number the first byte's bits lowest: 20 03 0A 01. -/
theorem test_table_word : decodeTableWord 32 0x010A0320 = some (.pushPulsed 3#8 10#8 1#8) := by decide
theorem test_table_word_operands_zero : decodeTableWord 8 0x40 = some (.setDigits 0#8 0#32 0#8 0#8) := by decide
theorem test_table_word_illegal : decodeTableWord 8 0x53 = none := by decide

/-! ### Source text (R308 to R310) -/

theorem test_assemble :
    (assembleLine "PUSH_PULSED 3, 10, 0".toList).toOption =
      some (some (decode (frame 0x20#8 [0x03#8, 0x0A#8, 0x00#8]) |>.toOption |>.getD .reset)) := by decide
theorem test_assemble_comment :
    (assembleLine "  UPDATE 0x3E8 ; one second".toList).toOption = some (some (.update 1000#32)) := by decide
theorem test_assemble_pseudo :
    (assembleLine "LAMP_DIM 9, 2".toList).toOption = some (some (.setLamp 9#8 1#8 2#8 0#16)) := by decide
theorem test_assemble_too_big : (assembleLine "READ_LEVEL 256".toList).toOption = none := by decide
theorem test_critical_program :
    programInputs (critical [.pseudo (.lampOn 4#8), .fire 2]) =
      [.command (frame 0x02#8 []), .command (frame 0x30#8 [0x04#8, 0x01#8, 0x00#8, 0x00#8, 0x00#8]), .timer, .timer,
       .command (frame 0x03#8 [])] := by decide

/-! ### Ill-formed terms, one for each check of WellFormed.lean -/

def noEventPriority : Config :=
  { cfg0 with priorityTable := [{ switchNumber := 0xFF#8, solenoidNumber := 0#8, holdTicks := 1#8 }] }

def noSuchDigit : Config := { cfg0 with displaySequence := [{ owner := .cred, k := 2, sel := 0#8 }] }

theorem test_illegal_capacity : Config.capacitiesLegal { cfg0 with swqCap := 1 } = false ∧
    Config.legal { cfg0 with swqCap := 1 } = false := by decide
theorem test_illegal_divisor : Config.divisorsLegal { cfg0 with dim2Reset := 0#8 } = false ∧
    Config.legal { cfg0 with dim2Reset := 0#8 } = false := by decide
theorem test_illegal_flash : Config.flashLegal { cfg0 with flashAllPeriod := 251#8 } = false ∧
    Config.legal { cfg0 with flashAllPeriod := 251#8 } = false := by decide
theorem test_illegal_switches : Config.switchesLegal { cfg0 with swSelfTest := 0xFF#8 } = false ∧
    Config.legal { cfg0 with swSelfTest := 0xFF#8 } = false := by decide
theorem test_illegal_strobe_table : Config.switchesLegal { cfg0 with numSwGroups := 3 } = false ∧
    Config.legal { cfg0 with numSwGroups := 3 } = false := by decide
theorem test_illegal_priority : Config.priorityTableLegal noEventPriority = false ∧
    Config.legal noEventPriority = false := by decide
theorem test_illegal_solenoids : Config.solenoidsLegal { cfg0 with numSolenoids := 8 } = false ∧
    Config.legal { cfg0 with numSolenoids := 8 } = false := by decide
theorem test_illegal_lamps : Config.lampsLegal { cfg0 with numLampBanks := 33 } = false ∧
    Config.legal { cfg0 with numLampBanks := 33 } = false := by decide
theorem test_illegal_displays : Config.displaysLegal { cfg0 with displaySequence := [] } = false ∧
    Config.legal { cfg0 with displaySequence := [] } = false := by decide
theorem test_illegal_slot : Config.displaysLegal noSuchDigit = false ∧ Config.legal noSuchDigit = false := by decide
theorem test_illegal_address : Config.addressesLegal { cfg0 with busAddrBits := 8 } = false ∧
    Config.legal { cfg0 with busAddrBits := 8 } = false := by decide
theorem test_operand_fits : OperandKind.fits .u8 255 = true ∧ OperandKind.fits .u8 256 = false ∧
    OperandKind.fits .u16 65536 = false ∧ OperandKind.fits .u32 4294967296 = false ∧
        OperandKind.fits .bool 2 = false := by
  decide
theorem test_source_count : SourceLine.wellFormed { mnemonic := .readLevel, operands := [] } = false := by decide
theorem test_source_width :
    SourceLine.wellFormed { mnemonic := .setLamp, operands := [1, 1, 0, 65536] } = false := by decide

/-! ### Steps -/

/-- A frame delivered after reset runs as the next step: READ_STATUS answers 0x01 (95_test_vectors.md 2.8). -/
theorem test_fetch :
    nextIs (step (State.reset.withFetchWord 8 0x05)) (fun t => answer t == [0x01#8] &&
        t.inputs == []) = true := by decide
theorem test_fetch_illegal :
    nextIs (step (s0.withFetchWord 8 0x07)) (fun t => statusByte t == 0x19#8) = true := by decide
theorem test_fetch_before_reset : isFault (step (State.powerOn.withFetchWord 8 0x05)) = true := by decide
theorem test_fetch_reset_first : nextIs (step (State.powerOn.withFetchWord 8 0x00)) (fun t => t.init) = true :=
    by decide

theorem test_reset :
    nextIs (exec (.reset) { live with lastErr := 3#4, errSticky := true, firePending := true, solDisabled := true })
      (fun t => statusByte t == 0x01#8 && t.responses == [[]]) = true := by decide
/-- Program P6. -/
theorem test_self_check :
    nextIs (exec (.selfCheck) { s0 with bus := busOf [0x55#8, 0x55#8, 0x00#8, 0x55#8, 0x55#8] })
      (fun t => answer t == [0x04#8] && t.bus.trace.length == 10 &&
          t.bus.trace.take 2 == [.write 0x10 0x55#8, .read 0x10 0x55#8]) = true := by decide
theorem test_self_check_refused :
    nextIs (exec (.selfCheck) live)
      (fun t => statusByte t == 0x38#8 && t.bus.trace == []) = true := by decide
theorem test_irq_suspend :
    nextIs (exec (.irqSuspend) live)
      (fun t => t.irqSuspended) = true := by decide
theorem test_irq_resume :
    nextIs (exec (.irqResume) { s0 with firePending := true })
      (fun t => statusByte t == 0x02#8 && t.tickCount == 0#32) = true := by decide
/-- E4: due at T itself. -/
theorem test_update_once :
    nextIs (exec (.update 1000#32) { s0 with tsol := timedSlots 1000#32 4#8 3#8 })
      (fun t => t.solq.entries == [4#8, 4#8, 4#8] && t.tsol.all (fun e => !e.active)) = true := by decide
theorem test_update_gated :
    nextIs (exec (.update 100#32) { s0 with solDisabled := true, tsol := timedSlots 100#32 5#8 2#8 })
      (fun t => t.solq.entries == [] && t.tsol.all (fun e => !e.active)) = true := by decide
theorem test_read_status :
    nextIs (exec (.readStatus) { s0 with solDisabled := true })
      (fun t => answer t == [0x05#8]) = true := by decide
theorem test_read_updown :
    nextIs (exec (.readUpdown) { s0 with udEvent := true, udTimer := 50#8 })
      (fun t => answer t == [1#8] && !t.udEvent && t.udTimer == 50#8) = true := by decide
theorem test_pull_event :
    nextIs (exec (.pullEvent) { s0 with swq := ringOf 4 [16#8, 9#8] })
      (fun t => answer t == [16#8] && t.swq.entries == [9#8]) = true := by decide
theorem test_pull_event_empty :
    nextIs (exec (.pullEvent) s0)
      (fun t => answer t == [0xFF#8]) = true := by decide
theorem test_read_level :
    nextIs (exec (.readLevel 10#8) { s0 with swNow := [0x00#8, 0x04#8] })
      (fun t => answer t == [1#8]) = true := by decide
theorem test_read_level_self_test :
    nextIs (exec (.readLevel 16#8) { s0 with selfTestLevel := true })
      (fun t => answer t == [1#8]) = true := by decide
theorem test_push_pulsed_full :
    nextIs (exec (.pushPulsed 3#8 5#8 0#8) { s0 with solq := ringOf 6 [5#8, 5#8, 5#8] })
      (fun t => t.solq.entries == [5#8, 5#8, 5#8, 3#8, 3#8]) = true := by decide
theorem test_push_pulsed_override :
    nextIs (exec (.pushPulsed 3#8 2#8 2#8) { s0 with solDisabled := true })
      (fun t => t.solq.entries == [3#8, 3#8]) = true := by decide
theorem test_push_priority :
    nextIs (exec (.pushPriority 2#8 2#8) { s0 with solq := ringOf 6 [5#8, 5#8] })
      (fun t => t.solq.entries == [2#8, 2#8, 5#8, 5#8]) = true := by decide
theorem test_push_priority_disabled :
    nextIs (exec (.pushPriority 2#8 1#8) { s0 with solDisabled := true })
      (fun t => t.solq.entries == []) = true := by decide
theorem test_push_timed :
    nextIs (exec (.pushTimed 1#8 1#8 50#32 0#8) { s0 with tsol := s0.tsol.modify 0 fun e => { e with active := true } })
      (fun t => answer t == [1#8] && (t.tsol.map fun e => e.fireAt) == [0#32, 50#32, 0#32]) = true := by decide
theorem test_push_timed_no_such_id :
    nextIs (exec (.pushTimed 16#8 1#8 0#32 0#8) s0)
      (fun t => answer t == [0#8] && t.tsol == s0.tsol) = true := by decide
theorem test_set_continuous :
    nextIs (exec (.setContinuous 6#8 1#8) s0)
      (fun t => t.contMask == 0x40#32) = true := by decide
theorem test_set_continuous_off :
    nextIs (exec (.setContinuous 9#8 0#8) { s0 with contMask := 0x0201#32 })
      (fun t => t.contMask == 0x0001#32) = true := by decide
theorem test_sol_disable :
    nextIs (exec (.solDisable) s0)
      (fun t => t.solDisabled) = true := by decide
theorem test_sol_enable :
    nextIs (exec (.solEnable) { s0 with solDisabled := true })
      (fun t => !t.solDisabled) = true := by decide
theorem test_read_cont_mask :
    nextIs (exec (.readContMask) { s0 with contMask := 0x0200#32 })
      (fun t => answer t == [0x00#8, 0x02#8, 0x00#8, 0x00#8]) = true := by decide
/-- The bits of program P4 for lamp 9, with the period of lamp 2. -/
theorem test_set_lamp :
    nextIs (exec (.setLamp 9#8 1#8 2#8 500#16) s0)
      (fun t => t.lampState == [0xFF#8, 0xFD#8] && t.lampDim1 == [0x00#8, 0x00#8] &&
          t.lampDim2 == [0x00#8, 0x02#8] && t.flashPeriod.getD 9 0#8 == 10#8) = true := by decide
theorem test_set_lamp_dim_3 :
    nextIs (exec (.setLamp 1#8 1#8 3#8 0#16) s0)
      (fun t => t.lampState == s0.lampState) = true := by decide
theorem test_read_lamp_state :
    nextIs (exec (.readLampState 1#8) { s0 with lampState := [0xF9#8, 0xFD#8] })
      (fun t => answer t == [1#8]) = true := by decide
theorem test_read_lamp_dim :
    nextIs (exec (.readLampDim 9#8) { s0 with lampDim2 := [0x00#8, 0x02#8] })
      (fun t => answer t == [2#8]) = true := by decide
theorem test_read_lamp_flash :
    nextIs (exec (.readLampFlash 12#8) { s0 with flashPeriod := s0.flashPeriod.set 12 10#8 })
      (fun t => answer t == [10#8]) = true := by decide
theorem test_lamps_off_all :
    nextIs (exec (.lampsOffAll) { s0 with lampState := [0x00#8, 0x12#8], lampDim1 := [0xFF#8, 0x01#8] })
      (fun t => t.lampState == [0xFF#8, 0xFF#8] && t.lampDim1 == [0x00#8, 0x00#8]) = true := by decide
theorem test_flash_all :
    nextIs (exec (.flashAll 500#32) s0)
      (fun t => t.lampState == [0x00#8, 0x00#8] && t.flashPeriod.all (fun p => p == 10#8)) = true := by decide
theorem test_flash_all_off :
    nextIs (exec (.flashAll 0#32) { s0 with lampState := [0x00#8, 0x00#8] })
      (fun t => t.lampState == [0xFF#8, 0xFF#8]) = true := by decide
theorem test_set_dim_divisors :
    nextIs (exec (.setDimDivisors 4#8 5#8) s0)
      (fun t => t.dimDiv1 == 4#8 && t.dimDiv2 == 5#8) = true := by decide
theorem test_set_dim_divisors_zero :
    nextIs (exec (.setDimDivisors 0#8 3#8) s0)
      (fun t => t.dimDiv1 == 2#8 && t.dimDiv2 == 3#8) = true := by decide
theorem test_set_digits :
    nextIs (exec (.setDigits 0#8 4250#32 1#8 2#8) { s0 with cfg := { cfg0 with digits := 7 } })
      (fun t => (t.displays[0].digits.map Fin.val) == [0, 5, 2, 4, 0, 0, 0] &&
          t.displays[0].mask == 0b0001111#8) = true := by decide
theorem test_set_digits_max :
    nextIs (exec (.setDigits 1#8 4294967295#32 1#8 0#8) { s0 with cfg := { cfg0 with digits := 7 } })
      (fun t => (t.displays[1].digits.map Fin.val) == [5, 9, 2, 7, 6, 9, 4] &&
          t.displays[1].mask == 0x7F#8) = true := by decide
theorem test_set_blank_mask :
    nextIs (exec (.setBlankMask 2#8 0xFF#8) s0)
      (fun t => t.displays[2].mask == 0x03#8) = true := by decide
theorem test_set_credits :
    nextIs (exec (.setCredits 123#8 1#8 0#8) s0)
      (fun t => t.cred.digit0 == 3 && t.cred.digit1 == 2 && t.cred.mask == 0b11#2) = true := by decide
theorem test_set_credits_short :
    nextIs (exec (.setCredits 5#8 1#8 0#8) s0)
      (fun t => t.cred.digit0 == 5 && t.cred.digit1 == 0 && t.cred.mask == 0b01#2) = true := by decide
theorem test_set_bip :
    nextIs (exec (.setBip 7#8 0#8 1#8) s0)
      (fun t => t.bip.digit0 == 7 && t.bip.mask == 0b00#2) = true := by decide
theorem test_push_sound :
    nextIs (exec (.pushSound 20#8) { s0 with sndLo := 10#8, sndHi := 20#8 })
      (fun t => answer t == [1#8] && t.sndq.entries == [20#8]) = true := by decide
theorem test_push_sound_low :
    nextIs (exec (.pushSound 9#8) { s0 with sndLo := 10#8, sndHi := 20#8 })
      (fun t => answer t == [0#8] && t.sndq.entries == []) = true := by decide
theorem test_push_timed_sound :
    nextIs (exec (.pushTimedSound 12#8 100#32) s0)
      (fun t => answer t == [1#8] && (t.tsnd.map fun e => e.fireAt) == [100#32, 0#32]) = true := by decide
theorem test_push_timed_sound_range :
    nextIs (exec (.pushTimedSound 30#8 0#32) { s0 with sndHi := 20#8 })
      (fun t => answer t == [0#8]) = true := by decide
theorem test_set_sound_range :
    nextIs (exec (.setSoundRange 20#8 10#8) s0)
      (fun t => t.sndLo == 20#8 && t.sndHi == 10#8) = true := by decide

/-! ### Firings (programs P1, P2, P4 of 95_test_vectors.md) -/

/-- P1, firing 1. -/
theorem test_firing_A :
    (firing { live with bus := busOf [0#8, 0#8, 0#8, 0#8] }).bus.trace =
      [.write 0x40 0x00#8, .write 0x41 0x0F#8, .write 0x20 0x00#8, .write 0x21 0xFF#8, .read 0x12 0#8,
       .write 0x10 0x01#8, .read 0x11 0#8, .write 0x10 0x02#8, .read 0x11 0#8, .read 0x13 0#8] := by decide
/-- P1, firing 2. -/
theorem test_firing_B :
    (firing { live with phase := .B, dispPos := 1, solq := ringOf 6 [3#8, 3#8], contMask := 0x0200#32,
                        bus := busOf [0#8] }).bus.trace =
      [.write 0x40 0x01#8, .write 0x41 0x0F#8, .write 0x30 0x08#8, .write 0x31 0x02#8, .write 0x50 0x00#8,
       .read 0x13 0#8] := by decide
/-- P2, firing 3: the first closed sample of switch 3 fires its priority pulse. -/
theorem test_priority :
    (firing { live with bus := busOf [0#8, 8#8, 0#8, 0#8] }).solq.entries = [7#8, 7#8] := by decide
/-- P2, firing 5: the second closed sample validates the switch. -/
theorem test_validated :
    (firing { live with swNow := [8#8, 0#8], bus := busOf [0#8, 8#8, 0#8, 0#8] }).swq.entries = [3#8] := by decide
/-- The self-test number is not queued behind itself (95_test_vectors.md 2.2). -/
theorem test_self_test_dedup :
    (swqPush 16#8 { s0 with swq := ringOf 4 [16#8, 4#8] }).swq.entries = [16#8, 4#8] ∧
    (swqPush 16#8 { s0 with swq := ringOf 4 [4#8] }).swq.entries = [4#8, 16#8] := by decide
/-- A validated closure of the self-test number meets the dedup of R401: it is not queued behind itself. -/
theorem test_self_test_in_matrix :
    (firing { live with cfg := { cfg0 with swSelfTest := 3#8 }, swNow := [8#8, 0#8],
                        bus := busOf [1#8, 8#8, 0#8, 0#8] }).swq.entries = [3#8] ∧
    (firing { live with cfg := { cfg0 with swSelfTest := 3#8 }, swNow := [8#8, 0#8], swq := ringOf 4 [9#8],
                        bus := busOf [1#8, 8#8, 0#8, 0#8] }).swq.entries = [9#8, 3#8, 3#8] := by decide
/-- P4, firing 5: both overlays apply at sweep 1. -/
theorem test_dim :
    lampData { s0 with lampState := [0xF9#8, 0xFD#8], lampDim1 := [0x02#8, 0#8], lampCycle := 1#32 } 0 = 0xFB#8 := by
  decide
theorem test_updown_latch :
    (upDownDebounce { live with bus := busOf [1#8] }).udEvent = true ∧
    (upDownDebounce { live with bus := busOf [1#8] }).udTimer = 50#8 := by decide
theorem test_pending :
    nextIs (step { s0 with inputs := [.timer] }) (fun t => statusByte t == 0x03#8 && t.bus.trace == []) = true := by
  decide
/-- E2: a ring of capacity 4 takes three entries and gives them back in order. -/
theorem test_ring :
    ((ringOf 4 []).pushBackN 1#8 4).entries = [1#8, 1#8, 1#8] ∧
    (((ringOf 4 [1#8, 2#8, 3#8]).pushBack 4#8) = none) ∧ (ringOf 4 [1#8, 2#8, 3#8]).popped.entries = [2#8, 3#8] := by
  decide
/-- 43_lamp.md's unit counts, from 95_test_vectors.md 2.4. -/
theorem test_flash_units :
    ([0#16, 1#16, 99#16, 100#16, 12549#16, 65535#16].map (flashUnits cfg0)) =
      [0#8, 1#8, 1#8, 2#8, 250#8, 250#8] := by decide

/-! ### Hypotheses that are met: one theorem for each obligation that has any,
    each clause at the edges of its range -/

def full : State :=
  { s0 with
    swq := ringOf 4 [16#8, 9#8, 1#8], solq := ringOf 6 [15#8, 0#8, 1#8, 2#8, 3#8], sndq := ringOf 4 [1#8, 2#8, 3#8]
    tsol := s0.tsol.map fun e => { e with active := true }, tsnd := s0.tsnd.map fun e => { e with active := true } }

def withInput (s : State) (i : Input) : State := { s with inputs := [i] }

/-- The self-test number inside the matrix (R8, R412), its switch about to be validated. -/
def inMatrix : State := { live with cfg := { cfg0 with swSelfTest := 3#8 }, swNow := [8#8, 0#8] }

def cfgBad : Config := { cfg0 with digits := 0 }

theorem witness_EncodeOfDecode :
    decode (frame 0x52#8 [0x0A#8, 0x14#8]) = .ok (.setSoundRange 10#8 20#8) := by decide
theorem witness_DecodingOrder :
    (Mnemonic.all.all fun k => k.opcode != 0x53#8) = true ∧
        Mnemonic.opcode .setSoundRange = (frame 0x52#8 [0x0A#8]).op ∧
      (frame 0x52#8 [0x0A#8]).length ≠ Mnemonic.setSoundRange.format.length ∧
      (frame 0x52#8 [0x0A#8, 0x14#8]).length = Mnemonic.setSoundRange.format.length := by decide
theorem witness_FrameRunsItsCommand :
    let s := withInput s0 (.command (frame 0x11#8 [0x0A#8]))
    s.cfg.legal = true ∧ s.inputs = .command (frame 0x11#8 [0x0A#8]) :: [] ∧
      decode (frame 0x11#8 [0x0A#8]) = .ok (.readLevel 10#8) := by decide
theorem witness_DecodingErrorIsRecorded :
    s0.cfg.legal = true ∧ s0.init = true ∧
      (withInput s0 (.command (frame 0x07#8 []))).inputs = .command (frame 0x07#8 []) :: [] ∧
      (withInput s0 (.command (frame 0x00#8 [0x00#8]))).inputs = .command (frame 0x00#8 [0x00#8]) :: [] ∧
      decode (frame 0x07#8 []) = .error .illegalOpcode ∧
          decode (frame 0x00#8 [0x00#8]) = .error .badLength := by decide
theorem witness_BeforeTheFirstReset :
    State.powerOn.cfg.legal = true ∧ State.powerOn.init = false ∧
      (withInput State.powerOn (.command (frame 0x00#8 []))).inputs = .command (frame 0x00#8 []) :: [] ∧
      (withInput State.powerOn (.command (frame 0x05#8 []))).inputs = .command (frame 0x05#8 []) :: [] ∧
          decode (frame 0x00#8 []) = .ok .reset ∧
      decode (frame 0x05#8 []) ≠ .ok .reset ∧ decode (frame 0x00#8 [0x00#8]) ≠ .ok .reset ∧
      (withInput State.powerOn .timer).inputs = .timer :: [] := by decide
theorem witness_TimerEventEffect :
    (withInput State.powerOn .timer).cfg.legal = true ∧ State.powerOn.init = false ∧
        (withInput s0 .timer).cfg.legal = true ∧
      s0.init = true ∧ s0.irqSuspended = true ∧ live.init = true ∧ live.irqSuspended = false ∧
      (withInput live .timer).inputs = .timer :: [] := by decide
theorem witness_PendingFiringIsDelivered :
    let s : State := { live with firePending := true }
    s.cfg.legal = true ∧ s.init = true ∧ s.irqSuspended = false ∧ s.firePending = true ∧
      (withInput s .pending).inputs = .pending :: [] ∧ (withInput s .timer).inputs = .timer :: [] := by decide
theorem witness_IdleTurnsAndIllegalConfigurations :
    s0.cfg.legal = true ∧ s0.inputs = [] ∧ (withInput s0 .pending).irqSuspended = true ∧
      State.powerOn.init = false ∧ (withInput live .pending).firePending = false ∧
      (withInput live .pending).inputs = .pending :: [] ∧
          ({ s0 with cfg := cfgBad } : State).cfg.legal = false := by decide
theorem witness_BusMemoryFollowsTheTrace :
    let s := withInput s0 (.command (frame 0x01#8 []))
    isNext (step s) = true ∧ isNext (step (withInput live .timer)) = true ∧
      lastWrite 0x10 [.write 0x10 0x55#8, .read 0x10 0#8] = some 0x55#8 ∧
      lastWrite 0x11 [.write 0x10 0x55#8, .read 0x11 0#8] = none := by decide
/-- The invariant on a running block whose next input is a firing event, and that its step is a next state. -/
theorem witness_StepKeepsInvariant : (withInput live .timer).Inv ∧ isNext (step (withInput live .timer)) = true := by
  refine ⟨?_, by decide⟩
  constructor <;> decide
theorem witness_ResetForgetsTheState :
    let s : State := { full with contMask := 0xFFFF#32, phase := .B, lastErr := 3#4 }
    s.cfg = s0.cfg ∧ s.inputs = s0.inputs ∧ s.bus = s0.bus ∧ s.responses = s0.responses ∧ s ≠ s0 := by decide
theorem witness_FiringCountsAndFrame :
    let s : State := { full with dispPos := 13, lampBank := 1 }
    s.phase = .A ∧ s.dispPos < s.cfg.displaySequence.length ∧ s.lampBank < s.cfg.numLampBanks ∧
      ({ full with phase := .B } : State).phase = .B ∧ full.solq.wf full.cfg.solqCap = true ∧
          full.sndq.wf full.cfg.sndqCap = true := by decide
theorem witness_FiringTraceIsExact :
    let s : State := { full with dispPos := 13 }
    s.dispPos < s.cfg.numSlots ∧ s.solq.wf s.cfg.solqCap = true ∧ s.sndq.wf s.cfg.sndqCap = true := by decide
theorem witness_UpDownLatch :
    ({ live with udTimer := 1#8 } : State).udTimer ≠ 0#8 ∧ live.udTimer = 0#8 ∧
      ((if cfg0.udLine.activeLow then ~~~(drawAt (busOf [1#8]) 0) else drawAt (busOf [1#8]) 0) &&& cfg0.udLine.mask) ≠ 0#8 ∧
      ((if cfg0.udLine.activeLow then ~~~(drawAt (busOf [0xFE#8]) 0) else drawAt (busOf [0xFE#8]) 0) &&& cfg0.udLine.mask) = 0#8 ∧
      drawAt (busOf [1#8, 0#8, 0#8, 1#8]) (cfg0.numSwGroups + 1) = 1#8 := by decide
theorem witness_OnlyResetClearsTheError :
    let s : State := { live with errSticky := true, inputs := [.timer] }
    isNext (step s) = true ∧ s.errSticky = true := by decide
theorem witness_CommandsLeaveTheBusAlone :
    Instr.update 0#32 ≠ .selfCheck ∧ isNext (exec (.update 0#32) full) = true := by decide
theorem witness_SuspensionHoldsFirings :
    let s := withInput s0 (.command (frame 0x04#8 [0#8, 0#8, 0#8, 0#8]))
    isNext (step s) = true ∧ s.init = true ∧ s.irqSuspended = true ∧
      decode (frame 0x04#8 [0#8, 0#8, 0#8, 0#8]) ≠ .ok .irqResume ∧
          decode (frame 0x04#8 [0#8, 0#8, 0#8, 0#8]) ≠ .ok .reset ∧
      isNext (step (withInput s0 .timer)) = true ∧ (withInput s0 .timer).inputs = .timer :: [] ∧
      ({ s0 with firePending := true } : State).firePending = true := by decide
theorem witness_ResponseLengths :
    isNext (exec .readContMask s0) = true ∧ isNext (exec .selfCheck live) = true ∧ live.irqSuspended = false ∧
      isNext (exec .selfCheck s0) = true := by decide
theorem witness_QueuedPulsesStay :
    Instr.pushPriority 1#8 1#8 ≠ .reset ∧ full.solq.wf full.cfg.solqCap = true ∧
      isNext (exec (.pushPriority 1#8 1#8) full) = true := by decide
theorem witness_SelfCheckEffect :
    (∀ k : Fin 5, ∀ j : Fin 5, k < j → s0.cfg.selfCheck[j].addr.toNat ≠ s0.cfg.selfCheck[k].addr.toNat) ∧
      (∀ k : Fin 5, s0.cfg.selfCheck[k].addr.toNat ≠ 0x11) ∧ s0.init = true ∧ s0.irqSuspended = true ∧
          live.init = true ∧ live.irqSuspended = false := by decide
theorem witness_IrqSuspendAndResumeEffect :
    let s : State := { s0 with firePending := true }
    s.init = true ∧ s.firePending = true := by decide
theorem witness_UpdateFreesSlotsAndFlashes :
    full.init = true ∧ full.tsol.length = full.cfg.tsolCap ∧ full.tsnd.length = full.cfg.tsndCap ∧
      full.lampState.length = full.cfg.numLampBanks ∧ 15 < full.cfg.nlamp := by decide
theorem witness_UpdateQueuesDueEntries :
    full.init = true ∧ full.tsol.length = full.cfg.tsolCap ∧ full.tsnd.length = full.cfg.tsndCap ∧
      full.solq.wf full.cfg.solqCap = true ∧ full.sndq.wf full.cfg.sndqCap = true ∧
      (full.tsol.all fun e => e.due 0#32) = true := by decide
theorem witness_TimedEntriesFireOnce :
    full.tsol.length = full.cfg.tsolCap ∧ full.tsnd.length = full.cfg.tsndCap ∧ (0#32).toNat ≤ (0#32).toNat ∧
      full.solq.wf full.cfg.solqCap = true ∧ full.sndq.wf full.cfg.sndqCap = true ∧
      nextIs (exec (.update 0#32) full) (fun r => isNext (exec (.update 0#32) r) &&
          isNext (exec (.update 1#32) r)) = true ∧
      isNext (step (withInput s0 .timer)) = true ∧ (s0.tsol[2]?.any fun e => !e.active) = true ∧
      (s0.tsnd[1]?.any fun e => !e.active) = true := by decide
theorem witness_ReadStatusEffect :
    full.init = true := by decide
theorem witness_ReadUpdownEffect :
    ({ s0 with udEvent := true } : State).init = true := by decide
theorem witness_PullEventEffect :
    full.init = true ∧ full.swq.wf full.cfg.swqCap = true ∧ full.swq.entries = 16#8 :: [9#8, 1#8] ∧
      s0.init = true ∧ s0.swq.wf s0.cfg.swqCap = true ∧ s0.swq.entries = [] := by decide
theorem witness_ReadLevelEffect :
    s0.init = true ∧ (15#8).toNat < 8 * s0.cfg.numSwGroups ∧ 8 * s0.cfg.numSwGroups ≤ (16#8).toNat ∧
      16#8 = s0.cfg.swSelfTest ∧ 8 * s0.cfg.numSwGroups ≤ (17#8).toNat ∧ 17#8 ≠ s0.cfg.swSelfTest := by decide
theorem witness_SwitchPushEffect :
    full.swq.wf full.cfg.swqCap = true ∧ (16#8 = full.cfg.swSelfTest ∧ full.swq.entries.head? = some 16#8) ∧
      full.swq.entries.length = full.cfg.swqCap - 1 ∧ s0.swq.wf s0.cfg.swqCap = true ∧
      ¬ (16#8 = s0.cfg.swSelfTest ∧ s0.swq.entries.head? = some 16#8) ∧
          s0.swq.entries.length < s0.cfg.swqCap - 1 := by decide
theorem witness_ScanPassSamplesEveryGroup :
    live.phase = .A ∧ live.swNow.length = live.cfg.numSwGroups ∧ live.swM1.length = live.cfg.numSwGroups ∧
      live.swM2.length = live.cfg.numSwGroups := by decide
theorem witness_ValidatedClosuresAreQueued :
    full.phase = .A ∧ full.swq.wf full.cfg.swqCap = true ∧ 8 * full.cfg.numSwGroups ≤ full.cfg.swSelfTest.toNat ∧
      inMatrix.phase = .A ∧ inMatrix.swq.wf inMatrix.cfg.swqCap = true ∧ inMatrix.cfg.legal = true ∧
      ¬ 8 * inMatrix.cfg.numSwGroups ≤ inMatrix.cfg.swSelfTest.toNat := by decide
theorem witness_PriorityPathFronts :
    full.phase = .A ∧ full.solq.wf full.cfg.solqCap = true ∧
      (full.cfg.priorityTable.all fun e => e.switchNumber.toNat < full.cfg.nsw) = true := by decide
theorem witness_PushPulsedEffect :
    s0.init = true ∧ s0.solq.wf s0.cfg.solqCap = true ∧ s0.cfg.numSolenoids ≤ (16#8).toNat ∧
      ({ s0 with solDisabled := true } : State).solDisabled = true ∧ (15#8).toNat < s0.cfg.numSolenoids ∧
      s0.solDisabled = false ∧ 1#8 ≠ 0#8 := by decide
theorem witness_PushPriorityEffect :
    full.init = true ∧ full.solq.wf full.cfg.solqCap = true ∧ full.cfg.numSolenoids ≤ (16#8).toNat ∧
      (15#8).toNat < full.cfg.numSolenoids ∧ full.solDisabled = false := by decide
theorem witness_PushTimedEffect :
    s0.init = true ∧ s0.cfg.numSolenoids ≤ (16#8).toNat ∧ (∀ e ∈ full.tsol, e.active = true) ∧
      (15#8).toNat < s0.cfg.numSolenoids ∧ (∃ e free, s0.tsol = [] ++ e :: free ∧ e.active = false) := by
  refine ⟨by decide, by decide, by decide, by decide, _, _, rfl, rfl⟩
theorem witness_SetContinuousEffect :
    s0.init = true ∧ (15#8).toNat < s0.cfg.numSolenoids ∧ s0.cfg.contAllowed.getLsbD 15 = true ∧
      ¬ (16#8).toNat < s0.cfg.numSolenoids := by decide
theorem witness_SolGateEffect :
    s0.init = true := by decide
theorem witness_ReadContMaskEffect :
    ({ s0 with contMask := 0xFFFF#32 } : State).init = true := by decide
theorem witness_SolenoidActuation :
    full.solq.wf full.cfg.solqCap = true ∧ s0.solq.wf s0.cfg.solqCap = true := by decide
theorem witness_LampStrobeEffect :
    0 < s0.cfg.numLampBanks ∧ s0.lampBank < s0.cfg.numLampBanks ∧
      ({ s0 with lampBank := 1 } : State).lampBank < s0.cfg.numLampBanks := by decide
theorem witness_FlashUnitsRule :
    0#16 = 0#16 ∧ 1#16 ≠ 0#16 := by decide
theorem witness_SetLampEffect :
    s0.init = true ∧ s0.lampState.length = s0.cfg.numLampBanks ∧ s0.lampDim1.length = s0.cfg.numLampBanks ∧
      s0.lampDim2.length = s0.cfg.numLampBanks ∧ s0.flashPeriod.length = s0.cfg.nlamp ∧ s0.cfg.nlamp ≤ (16#8).toNat ∧
      2 < (3#8).toNat ∧ (15#8).toNat < s0.cfg.nlamp ∧ (2#8).toNat ≤ 2 := by decide
theorem witness_LampReadsEffect :
    s0.init = true ∧ s0.cfg.nlamp ≤ (16#8).toNat ∧ (15#8).toNat < s0.cfg.nlamp := by decide
theorem witness_LampsOffAllEffect :
    s0.init = true ∧ s0.lampState.length = s0.cfg.numLampBanks ∧ s0.lampDim1.length = s0.cfg.numLampBanks ∧
      s0.lampDim2.length = s0.cfg.numLampBanks ∧ s0.flashPeriod.length = s0.cfg.nlamp := by decide
theorem witness_FlashAllEffect :
    s0.init = true ∧ s0.cfg.legal = true ∧ s0.lampState.length = s0.cfg.numLampBanks ∧
      s0.lampDim1.length = s0.cfg.numLampBanks ∧ s0.lampDim2.length = s0.cfg.numLampBanks ∧
      s0.flashPeriod.length = s0.cfg.nlamp ∧ 15 < s0.cfg.nlamp := by decide
theorem witness_SetDimDivisorsEffect :
    s0.init = true ∧ (0#8 = 0#8 ∨ 3#8 = 0#8) ∧ 1#8 ≠ 0#8 ∧ 255#8 ≠ 0#8 := by decide
theorem witness_SetDigitsEffect :
    s0.init = true ∧ (4 : Fin 5).val = (4#8).toNat ∧ (4 : Fin 5).val ≠ (5#8).toNat ∧ 1 < s0.cfg.digits := by decide
theorem witness_MagMaskRule :
    cfg0.digits ≤ 8 ∧ ({ cfg0 with digits := 8 } : Config).digits ≤ 8 := by decide
theorem witness_SetBlankMaskEffect :
    s0.init = true ∧ s0.cfg.digits ≤ 8 ∧ (4 : Fin 5).val = (4#8).toNat ∧ (4 : Fin 5).val ≠ (5#8).toNat := by decide
theorem witness_SubDisplayEffect :
    s0.init = true ∧ 1#8 ≠ 0#8 ∧ 10 ≤ (110#8).toNat % 100 ∧ (109#8).toNat % 100 < 10 := by decide
theorem witness_DisplayStrobeEffect :
    (s0.cfg.displaySequence[s0.dispPos]? = some { owner := .primary 0, k := 0, sel := 0x00#8 }) ∧
      s0.cfg.displaySequence[11]? = some { owner := .cred, k := 1, sel := 0x31#8 } ∧
      s0.cfg.displaySequence[13]? = some { owner := .bip, k := 1, sel := 0x41#8 } := by decide
theorem witness_PushSoundEffect :
    let s : State := { s0 with sndLo := 10#8, sndHi := 20#8 }
    s.init = true ∧ s.sndq.wf s.cfg.sndqCap = true ∧ (9#8).toNat < s.sndLo.toNat ∧ s.sndHi.toNat < (21#8).toNat ∧
      s.sndLo.toNat ≤ (10#8).toNat ∧ (20#8).toNat ≤ s.sndHi.toNat := by decide
theorem witness_PushTimedSoundEffect :
    let s : State := { s0 with sndLo := 10#8, sndHi := 20#8 }
    s.init = true ∧ (9#8).toNat < s.sndLo.toNat ∧ s.sndHi.toNat < (21#8).toNat ∧ (∀ e ∈ full.tsnd, e.active = true) ∧
      s.sndLo.toNat ≤ (10#8).toNat ∧ (20#8).toNat ≤ s.sndHi.toNat ∧ (∃ e free, s.tsnd = [] ++ e :: free ∧
          e.active = false) := by
  refine ⟨by decide, by decide, by decide, by decide, by decide, by decide, _, _, rfl, rfl⟩
theorem witness_SetSoundRangeEffect :
    s0.init = true := by decide
theorem witness_SoundActuation :
    full.sndq.wf full.cfg.sndqCap = true ∧ s0.sndq.wf s0.cfg.sndqCap = true := by decide

end Sys2Proof.Tests
end

section
/-! PROOFS. The actuate pass: the solenoid pattern, its writes, the pulse it takes (R462). -/

namespace Sys2Proof.Proofs

open Sys2Proof.Machine Sys2Proof.Laws

/-- R462's pattern bit by bit: the continuous mask and the popped solenoid's own bit. -/
theorem getLsbD_solPattern (mask : U32) (popped : Option Byte) {k : Nat} (hk : k < 32) :
    (solPattern mask popped).getLsbD k = (mask.getLsbD k || popped.any fun x => x.toNat == k) := by
  cases popped with
  | none => simp [solPattern]
  | some x => simp [solPattern, getLsbD_bit32 _ hk, beq_eq_decide, eq_comm]

/-- The actuate pass writes the pattern of what it pops, and uses up no draw. -/
theorem solenoidActuate_bus (s : State) :
    (solenoidActuate s).bus.trace = s.bus.trace ++ ((List.range s.cfg.nsolb).map fun i =>
      .write (busAddrPlus s.cfg s.cfg.solAddr i)
        ((solPattern s.contMask (s.solq.pop.map Prod.fst)).extractLsb' (8 * i) 8)) ∧
    ∀ k, drawAt (solenoidActuate s).bus k = drawAt s.bus k :=
  solWrite_bus _ { s with solq := s.solq.popped }

/-- Settles O44: the ring rule for a pop, the writes of the pattern, and the frame of the pass. -/
theorem solenoidActuation : Obligations.SolenoidActuation := by
  intro s hwf
  obtain ⟨hpop_wf, hpop_entries, hpop_fst⟩ := popped_spec hwf
  have hsolq : (solenoidActuate s).solq = s.solq.popped := by rw [solenoidActuate_frame]
  refine ⟨_, rfl, ?frame, ?wf, ?entries, fun k hk => getLsbD_solPattern _ _ hk, ?trace⟩
  case frame => rw [hsolq]; exact solenoidActuate_frame s
  case wf => rw [hsolq]; exact hpop_wf
  case entries => rw [hsolq]; exact hpop_entries
  case trace => rw [← hpop_fst]; exact (solenoidActuate_bus s).1

end Sys2Proof.Proofs
end

section
/-! PROOFS. The check of R8 group by group, and the steps in which the block does nothing. -/

namespace Sys2Proof.Proofs

open Sys2Proof.Machine Sys2Proof.Laws

/-- A byte is not 0 when it is at least 1. -/
theorem bne_zero_iff (b : Byte) : (b != 0#8) = true ↔ 1 ≤ b.toNat := by
  rw [bne_iff_ne, ne_eq, ← BitVec.toNat_inj, BitVec.toNat_ofNat]
  omega

theorem capacitiesLegal_iff (c : Config) : c.capacitiesLegal = true ↔
    (2 ≤ c.swqCap ∧ c.swqCap ≤ 255) ∧ (2 ≤ c.solqCap ∧ c.solqCap ≤ 65535) ∧ (1 ≤ c.tsolCap ∧ c.tsolCap ≤ 255) ∧
    (2 ≤ c.sndqCap ∧ c.sndqCap ≤ 255) ∧ (1 ≤ c.tsndCap ∧ c.tsndCap ≤ 255) := by
  simp [Config.capacitiesLegal, and_assoc]

theorem divisorsLegal_iff (c : Config) : c.divisorsLegal = true ↔
    1 ≤ c.udTimeout.toNat ∧ 1 ≤ c.flashUnitMs.toNat ∧ 1 ≤ c.dim1Reset.toNat ∧ 1 ≤ c.dim2Reset.toNat := by
  simp only [Config.divisorsLegal, Bool.and_eq_true, bne_zero_iff, and_assoc]

theorem flashLegal_iff (c : Config) : c.flashLegal = true ↔
    (1 ≤ c.flashMin.toNat ∧ c.flashMin.toNat ≤ c.flashMax.toNat) ∧
    (c.flashMin.toNat ≤ c.flashAllPeriod.toNat ∧ c.flashAllPeriod.toNat ≤ c.flashMax.toNat) := by
  simp only [Config.flashLegal, Bool.and_eq_true, decide_eq_true_eq, and_assoc]

/-- Constraint (a) of R8 for one switch number: 0xFF is no event. -/
theorem bne_ff_iff (b : Byte) : (b != 0xFF#8) = true ↔ b.toNat < 0xFF := by
  rw [bne_iff_ne, ne_eq, ← BitVec.toNat_inj, BitVec.toNat_ofNat]
  omega

theorem switchesLegal_iff (c : Config) : c.switchesLegal = true ↔
    (1 ≤ c.numSwGroups ∧ c.numSwGroups ≤ 8) ∧ c.swStrobeValue.length = c.numSwGroups ∧
    c.swSelfTest.toNat ≤ 254 := by
  simp only [Config.switchesLegal, Bool.and_eq_true, decide_eq_true_eq, beq_iff_eq, bne_ff_iff, and_assoc,
    Nat.lt_succ_iff]

theorem priorityTableLegal_iff (c : Config) : c.priorityTableLegal = true ↔
    c.priorityTable.length ≤ 255 ∧ ∀ e ∈ c.priorityTable, e.switchNumber.toNat < 0xFF := by
  simp only [Config.priorityTableLegal, Bool.and_eq_true, decide_eq_true_eq, List.all_eq_true, bne_ff_iff]

/-- A mask stays within the ids below `n` exactly when each of its bits names such an id. -/
theorem subset_idMask_iff (mask : U32) (n : Nat) :
    mask &&& ~~~ idMask n = 0#32 ↔ ∀ k, mask.getLsbD k = true → k < n := by
  constructor
  · intro h k hk
    have hk32 : k < 32 := BitVec.lt_of_getLsbD hk
    have hbit : (mask &&& ~~~ idMask n).getLsbD k = false := by simp [h]
    rw [BitVec.getLsbD_and, BitVec.getLsbD_not, getLsbD_idMask n hk32] at hbit
    simpa [hk, hk32] using hbit
  · intro h
    refine BitVec.eq_of_getLsbD_eq fun k hk => ?_
    rw [BitVec.getLsbD_and, BitVec.getLsbD_not, getLsbD_idMask n hk]
    simpa [hk] using h k

theorem solenoidsLegal_iff (c : Config) : c.solenoidsLegal = true ↔
    (1 ≤ c.numSolenoids ∧ c.numSolenoids ≤ 32) ∧ ∀ k, c.contAllowed.getLsbD k = true → k < c.numSolenoids := by
  simp only [Config.solenoidsLegal, Bool.and_eq_true, decide_eq_true_eq, beq_iff_eq, subset_idMask_iff]

theorem lampsLegal_iff (c : Config) : c.lampsLegal = true ↔ 1 ≤ c.numLampBanks ∧ c.numLampBanks ≤ 32 := by
  simp [Config.lampsLegal]

/-- Constraint (c) of R8 for one slot, owner by owner. -/
theorem slotLegal_iff (c : Config) (x : Slot) : c.slotLegal x = true ↔
    (∀ d, x.owner = .primary d → x.k < c.digits) ∧ (x.owner = .cred ∨ x.owner = .bip → x.k < 2) := by
  obtain ⟨owner, k, sel⟩ := x
  cases owner <;> simp [Config.slotLegal]

theorem displaysLegal_iff (c : Config) : c.displaysLegal = true ↔
    (1 ≤ c.digits ∧ c.digits ≤ 8) ∧ 1 ≤ c.displaySequence.length ∧
    ∀ x ∈ c.displaySequence, (∀ d, x.owner = .primary d → x.k < c.digits) ∧
      (x.owner = .cred ∨ x.owner = .bip → x.k < 2) := by
  simp only [Config.displaysLegal, Bool.and_eq_true, decide_eq_true_eq, List.all_eq_true, slotLegal_iff, and_assoc]

/-- What holds of every entry of P_SELFCHECK holds of each of its five places. -/
theorem selfCheck_forall_iff (c : Config) (P : SelfCheckEntry → Prop) :
    (∀ e ∈ c.selfCheck.toList, P e) ↔ ∀ k : Fin 5, P c.selfCheck[k] := by
  simp [Vector.forall_mem_iff_forall_getElem, Fin.forall_iff]

theorem addressesLegal_iff (c : Config) : c.addressesLegal = true ↔
    (1 ≤ c.busAddrBits ∧ c.busAddrBits ≤ 32) ∧
    (∀ a ∈ [c.swStrobeAddr, c.swReturnAddr, c.selfTestLine.addr, c.udLine.addr, c.solAddr, c.lampSelectAddr,
        c.lampDataAddr, c.dispSelectAddr, c.dispDataAddr, c.soundAddr], a.bits ≤ c.busAddrBits) ∧
    ∀ k : Fin 5, c.selfCheck[k].addr.bits ≤ c.busAddrBits := by
  rw [← selfCheck_forall_iff c fun e => e.addr.bits ≤ c.busAddrBits]
  simp only [Config.addressesLegal, Config.addresses, Bool.and_eq_true, decide_eq_true_eq, List.all_eq_true,
    List.forall_mem_append, List.forall_mem_map]

/-- A turn of the dispatcher while the pending step is not enabled does nothing (log 3). -/
theorem pendingTurn_of_not_enabled {s : State}
    (h : s.init = false ∨ s.irqSuspended = true ∨ s.firePending = false) : pendingTurn s = s := by
  rw [pendingTurn, if_neg]
  rcases h with h | h | h <;> simp [pendingEnabled, h]

/-- A configuration outside R8 is refused whatever comes next (log 16). -/
theorem step_of_illegal {s : State} (h : s.cfg.legal = false) : step s = .refused .illegalConfiguration := by
  unfold step
  split <;> simp [whenConfigured, h]

/-- Settles O11: the three idle or refused steps, and the check of R8 put together from its groups. -/
theorem idleTurnsAndIllegalConfigurations : Obligations.IdleTurnsAndIllegalConfigurations := by
  refine ⟨fun s => ⟨fun hl hi => ?idle, fun hl rest hi hne => ?turn, step_of_illegal⟩,
    fun c => ⟨⟨rfl, rfl, rfl, rfl⟩, ?legal⟩⟩
  case idle => simp [step, hi, hl]
  case turn =>
    have h := pendingTurn_of_not_enabled (s := { s with inputs := rest }) hne
    simp [step, hi, hl, h]
  case legal =>
    simp only [Config.legal, Bool.and_eq_true, capacitiesLegal_iff, divisorsLegal_iff, flashLegal_iff,
      switchesLegal_iff, priorityTableLegal_iff, solenoidsLegal_iff, lampsLegal_iff, displaysLegal_iff,
      addressesLegal_iff, and_assoc]

end Sys2Proof.Proofs
end

section
/-! PROOFS. What a firing leaves on the bus (R655), and its up/down procedure (R654). -/

namespace Sys2Proof.Proofs

open Sys2Proof.Machine Sys2Proof.Laws

/-! ### The parts of a firing (R652) -/

/-- A firing up to its up/down procedure: the display strobe, then the work of the phase. -/
def firingWork (s : State) : State :=
  match s.phase with
  | .A => scanPass (displayStrobe s)
  | .B => actuatePass (displayStrobe s)

theorem firingWork_A {s : State} (h : s.phase = .A) : firingWork s = scanPass (displayStrobe s) := by
  simp [firingWork, h]

theorem firingWork_B {s : State} (h : s.phase = .B) : firingWork s = actuatePass (displayStrobe s) := by
  simp [firingWork, h]

@[simp] theorem displayStrobe_phase (s : State) : (displayStrobe s).phase = s.phase := by rw [displayStrobe_frame]
@[simp] theorem displayStrobe_cfg (s : State) : (displayStrobe s).cfg = s.cfg := by rw [displayStrobe_frame]

/-- A firing is its work, then the up/down procedure, then the phase and the count. -/
theorem firing_eq (s : State) : firing s =
    { upDownDebounce (firingWork s) with
      phase := (upDownDebounce (firingWork s)).phase.other
      tickCount := (upDownDebounce (firingWork s)).tickCount + 1#32 } := by
  cases h : s.phase with
  | A => simp only [firing, displayStrobe_phase, h, firingWork_A]
  | B => simp only [firing, displayStrobe_phase, h, firingWork_B]

/-- The work of a firing leaves the parameters and the up/down fields alone. -/
theorem firingWork_frame (s : State) :
    (firingWork s).cfg = s.cfg ∧ (firingWork s).udTimer = s.udTimer ∧ (firingWork s).udEvent = s.udEvent := by
  cases h : s.phase with
  | A => rw [firingWork_A h, scanPass_frame, displayStrobe_frame]; exact ⟨rfl, rfl, rfl⟩
  | B => rw [firingWork_B h, actuatePass_frame, displayStrobe_frame]; exact ⟨rfl, rfl, rfl⟩

/-! ### The transactions of each part -/

/-- The transactions of R556 at the current slot. -/
def displayTransactions (s : State) : List Transaction :=
  s.cfg.displaySequence[s.dispPos]?.elim [] fun x =>
    [.write s.cfg.dispSelectAddr.toNat x.sel, .write s.cfg.dispDataAddr.toNat (slotData s x)]

/-- The transactions of the phase's work: R501, R406 and R402 in phase A, R462 and R605 in phase B. -/
def phaseTransactions (s : State) : List Transaction :=
  if s.phase = .A then
    [.write s.cfg.lampSelectAddr.toNat (BitVec.ofNat 8 s.lampBank),
     .write s.cfg.lampDataAddr.toNat (lampData s s.lampBank),
     .read s.cfg.selfTestLine.addr.toNat (drawAt s.bus 0)] ++
    (List.range s.cfg.numSwGroups).flatMap fun g =>
      [.write s.cfg.swStrobeAddr.toNat (s.cfg.swStrobeValue.getD g 0#8),
       .read s.cfg.swReturnAddr.toNat (drawAt s.bus (g + 1))]
  else
    ((List.range s.cfg.nsolb).map fun i =>
      .write (busAddrPlus s.cfg s.cfg.solAddr i)
        ((solPattern s.contMask (s.solq.pop.map Prod.fst)).extractLsb' (8 * i) 8)) ++
    [.write s.cfg.soundAddr.toNat ((s.sndq.pop.map Prod.fst).getD s.cfg.soundSilent)]

/-- How many reads the phase's work makes: the self-test line and every switch group, in phase A alone. -/
def phaseReads (s : State) : Nat := if s.phase = .A then s.cfg.numSwGroups + 1 else 0

/-- The display strobe writes its slot's two bytes and uses up no draw. -/
theorem displayStrobe_bus (s : State) :
    (displayStrobe s).bus.trace = s.bus.trace ++ displayTransactions s ∧
    ∀ k, drawAt (displayStrobe s).bus k = drawAt s.bus k := by
  unfold displayStrobe displayTransactions
  cases s.cfg.displaySequence[s.dispPos]? with
  | none => simp
  | some x => simp [drawAt_write]

/-- The actuate pass writes the solenoid pattern, then the sound byte, and uses up no draw. -/
theorem actuatePass_bus (s : State) :
    (actuatePass s).bus.trace = s.bus.trace ++ (((List.range s.cfg.nsolb).map fun i =>
      .write (busAddrPlus s.cfg s.cfg.solAddr i)
        ((solPattern s.contMask (s.solq.pop.map Prod.fst)).extractLsb' (8 * i) 8)) ++
      [.write s.cfg.soundAddr.toNat ((s.sndq.pop.map Prod.fst).getD s.cfg.soundSilent)]) ∧
    ∀ k, drawAt (actuatePass s).bus k = drawAt s.bus k := by
  obtain ⟨htrace, hdraws⟩ := solenoidActuate_bus s
  have hcfg : (solenoidActuate s).cfg = s.cfg := by rw [solenoidActuate_frame]
  have hsndq : (solenoidActuate s).sndq = s.sndq := by rw [solenoidActuate_frame]
  simp [actuatePass, soundActuate, drawAt_write, htrace, hdraws, hcfg, hsndq]

/-- The display strobe writes nothing that the phase's transactions depend on. -/
theorem phaseTransactions_displayStrobe (s : State) :
    phaseTransactions (displayStrobe s) = phaseTransactions s := by
  have hdraws := (displayStrobe_bus s).2
  have hlamp : lampData (displayStrobe s) = lampData s := by rw [displayStrobe_frame]; rfl
  have hbank : (displayStrobe s).lampBank = s.lampBank := by rw [displayStrobe_frame]
  have hmask : (displayStrobe s).contMask = s.contMask := by rw [displayStrobe_frame]
  have hsolq : (displayStrobe s).solq = s.solq := by rw [displayStrobe_frame]
  have hsndq : (displayStrobe s).sndq = s.sndq := by rw [displayStrobe_frame]
  simp only [phaseTransactions, displayStrobe_phase, displayStrobe_cfg, hdraws, hlamp, hbank, hmask, hsolq, hsndq]

/-- The work of a firing: the display's transactions, then the phase's, and the phase's draws used up. -/
theorem firingWork_bus (s : State) :
    (firingWork s).bus.trace = s.bus.trace ++ displayTransactions s ++ phaseTransactions s ∧
    drawAt (firingWork s).bus 0 = drawAt s.bus (phaseReads s) := by
  obtain ⟨htrace, hdraws⟩ := displayStrobe_bus s
  rw [← phaseTransactions_displayStrobe, ← htrace, ← hdraws]
  cases h : s.phase with
  | A =>
    obtain ⟨hscan, hscan_draws⟩ := scanPass_bus (displayStrobe s)
    rw [firingWork_A h, hscan, hscan_draws]
    simp [phaseTransactions, phaseReads, h]
  | B =>
    obtain ⟨hact, hact_draws⟩ := actuatePass_bus (displayStrobe s)
    rw [firingWork_B h, hact, hact_draws]
    simp [phaseTransactions, phaseReads, h]

/-- The trace of a firing: display, phase, and the one read of the up/down line, which takes the next draw. -/
theorem firing_trace (s : State) :
    (firing s).bus.trace = s.bus.trace ++ (displayTransactions s ++ phaseTransactions s) ++
      [.read s.cfg.udLine.addr.toNat (drawAt s.bus (phaseReads s))] := by
  obtain ⟨htrace, hdraw⟩ := firingWork_bus s
  obtain ⟨hcfg, -, -⟩ := firingWork_frame s
  rw [firing_eq, upDownDebounce_bus, read_trace, ← drawAt_zero, htrace, hdraw, hcfg, List.append_assoc s.bus.trace]

/-! ### The exact trace -/

/-- R655's list is that of the parts: what a well-formed ring pops is its first entry. -/
theorem firingTransactions_eq {s : State} (hsol : s.solq.wf s.cfg.solqCap = true)
    (hsnd : s.sndq.wf s.cfg.sndqCap = true) :
    firingTransactions s = displayTransactions s ++ phaseTransactions s ++
      [.read s.cfg.udLine.addr.toNat (drawAt s.bus (phaseReads s))] := by
  obtain ⟨-, -, hpop⟩ := popped_spec hsol
  obtain ⟨-, -, hpop'⟩ := popped_spec hsnd
  unfold firingTransactions displayTransactions phaseTransactions phaseReads
  cases s.cfg.displaySequence[s.dispPos]? <;> cases s.phase <;> simp [hpop, hpop', busAddrPlus]

theorem map_shape_displayTransactions {s : State} (h : s.dispPos < s.cfg.numSlots) :
    (displayTransactions s).map Transaction.shape =
      [(true, s.cfg.dispSelectAddr.toNat), (true, s.cfg.dispDataAddr.toNat)] := by
  rw [displayTransactions, List.getElem?_eq_getElem h]
  rfl

/-- The shape of R655 depends on the phase and the parameters alone. -/
theorem map_shape_firingTransactions {s : State} (h : s.dispPos < s.cfg.numSlots)
    (hsol : s.solq.wf s.cfg.solqCap = true) (hsnd : s.sndq.wf s.cfg.sndqCap = true) :
    (firingTransactions s).map Transaction.shape = firingShape s.cfg s.phase := by
  rw [firingTransactions_eq hsol hsnd, List.map_append, List.map_append, map_shape_displayTransactions h]
  unfold phaseTransactions firingShape
  cases s.phase <;> simp [Transaction.shape, List.map_flatMap, busAddrPlus, Function.comp_def]

/-- The number of transactions R655 gives each phase. -/
theorem firingShape_length (c : Config) (p : Phase) :
    (firingShape c p).length = if p = .A then 6 + 2 * c.numSwGroups else 4 + (c.numSolenoids + 7) / 8 := by
  cases p <;> simp [firingShape, Config.nsolb] <;> omega

/-- Settles O18: the trace is that of the firing's parts, whose list is R655's. -/
theorem firingTraceIsExact : Obligations.FiringTraceIsExact := by
  intro s hpos hsol hsnd
  have hshape := map_shape_firingTransactions hpos hsol hsnd
  refine ⟨?_, hshape, ?_⟩
  · rw [firing_trace, firingTransactions_eq hsol hsnd, List.append_assoc]
  · rw [← firingShape_length, ← hshape, List.length_map]

/-! ### The up/down latch (R654) -/

/-- R13's test written out. -/
theorem lineLevel_iff (l : Line) (r : Byte) :
    lineLevel l r = true ↔ ((if l.activeLow then ~~~r else r) &&& l.mask) ≠ 0#8 := by
  rw [lineLevel, bne_iff_ne]

/-- In lock-out the timer counts down and the sample is ignored. -/
theorem upDownDebounce_lockout {s : State} (h : s.udTimer ≠ 0#8) :
    upDownDebounce s = { s with bus := (upDownDebounce s).bus, udTimer := s.udTimer - 1#8 } := by
  rw [upDownDebounce_bus]
  simp [upDownDebounce, h, busRead]

/-- Out of lock-out an active sample latches and loads the timeout. -/
theorem upDownDebounce_active {s : State} (h : s.udTimer = 0#8) (ha : lineLevel s.cfg.udLine (drawAt s.bus 0) = true) :
    upDownDebounce s =
      { s with bus := (upDownDebounce s).bus, udEvent := true, udTimer := s.cfg.udTimeout } := by
  rw [drawAt_zero] at ha
  rw [upDownDebounce_bus]
  simp [upDownDebounce, h, ha, busRead]

/-- Out of lock-out an inactive sample changes nothing. -/
theorem upDownDebounce_inactive {s : State} (h : s.udTimer = 0#8)
    (ha : ¬ lineLevel s.cfg.udLine (drawAt s.bus 0) = true) :
    upDownDebounce s = { s with bus := (upDownDebounce s).bus } := by
  rw [drawAt_zero] at ha
  rw [upDownDebounce_bus]
  simp [upDownDebounce, h, ha, busRead]

/-- The up/down fields after a firing are those its procedure leaves. -/
theorem firing_upDown (s : State) :
    (firing s).udTimer = (upDownDebounce (firingWork s)).udTimer ∧
    (firing s).udEvent = (upDownDebounce (firingWork s)).udEvent := by
  rw [firing_eq]; exact ⟨rfl, rfl⟩

/-- Settles O19: the three cases of the procedure, and of a firing, whose procedure runs on the state its work leaves. -/
theorem upDownLatch : Obligations.UpDownLatch := by
  intro s
  obtain ⟨hcfg, htimer, hevent⟩ := firingWork_frame s
  obtain ⟨htimer', hevent'⟩ := firing_upDown s
  have hdraw : drawAt (firingWork s).bus 0 = drawAt s.bus (phaseReads s) := (firingWork_bus s).2
  refine ⟨by rw [upDownDebounce_bus, read_trace, drawAt_zero], upDownDebounce_lockout,
    fun h ha => upDownDebounce_active h ((lineLevel_iff _ _).2 ha),
    fun h ha => upDownDebounce_inactive h fun hl => (lineLevel_iff _ _).1 hl ha,
    drawAt s.bus (phaseReads s), displayTransactions s ++ phaseTransactions s, rfl, firing_trace s, ?lockout, ?active,
    ?inactive⟩
  case lockout =>
    intro h
    rw [htimer', hevent', upDownDebounce_lockout (by rwa [htimer]), ← htimer, ← hevent]
    exact ⟨rfl, rfl⟩
  case active =>
    intro h ha
    rw [htimer', hevent', upDownDebounce_active (by rw [htimer, h]) (by rwa [hcfg, hdraw, lineLevel_iff]), ← hcfg]
    exact ⟨rfl, rfl⟩
  case inactive =>
    intro h ha
    rw [htimer', hevent', upDownDebounce_inactive (by rw [htimer, h]) (by rw [hcfg, hdraw, lineLevel_iff, ha]; simp),
      ← hevent, ← h, ← htimer]
    exact ⟨rfl, rfl⟩

end Sys2Proof.Proofs
end

section
/-! PROOFS. What a firing of phase A leaves in the switch fields: the sampled history (R402, R406) and the event queue
(R401, R403, R404). -/

namespace Sys2Proof.Proofs

open Sys2Proof.Machine Sys2Proof.Laws

/-! ### Where the switch scan of a firing starts -/

/-- The state in which a firing of phase A enters its switch scan: display and lamps strobed, self-test line read. -/
def scanStart (s : State) : State := selfTestRead (lampStrobe (displayStrobe s))

/-- A firing's work in phase A is the switch scan from there, and the scan is counted. -/
theorem firingWork_scan {s : State} (h : s.phase = .A) : firingWork s =
    { switchScan (scanStart s) with scanCount := (switchScan (scanStart s)).scanCount + 1#32 } := by
  rw [firingWork_A h]; rfl

/-- The switch fields after a firing of phase A are those its switch scan leaves. -/
theorem firing_switchFields {s : State} (h : s.phase = .A) :
    (firing s).cfg = s.cfg ∧ (firing s).swNow = (switchScan (scanStart s)).swNow ∧
    (firing s).swM1 = (switchScan (scanStart s)).swM1 ∧ (firing s).swM2 = (switchScan (scanStart s)).swM2 ∧
    (firing s).selfTestLevel = (switchScan (scanStart s)).selfTestLevel ∧
    (firing s).swq = (switchScan (scanStart s)).swq := by
  refine ⟨by rw [firing_frame], ?_⟩
  rw [firing_eq, firingWork_scan h, upDownDebounce_frame]
  exact ⟨rfl, rfl, rfl, rfl, rfl⟩

/-- Reading the self-test line stores R13's level of the next draw (R406). -/
theorem selfTestRead_level (s : State) :
    (selfTestRead s).selfTestLevel = lineLevel s.cfg.selfTestLine (drawAt s.bus 0) := by
  unfold selfTestRead
  simp only [drawAt_zero]
  split
  · rw [swqPush_frame]
  · rfl

theorem lampStrobe_draws (s : State) (k : Nat) : drawAt (lampStrobe s).bus k = drawAt s.bus k := by
  rw [lampStrobe_bus, drawAt_write, drawAt_write]

/-- What stands at the start of the switch scan: nothing of the history is touched, one draw is used up, and its level is
stored. -/
theorem scanStart_spec (s : State) :
    (scanStart s).cfg = s.cfg ∧ (scanStart s).swNow = s.swNow ∧ (scanStart s).swM1 = s.swM1 ∧
    (scanStart s).swM2 = s.swM2 ∧ (∀ k, drawAt (scanStart s).bus k = drawAt s.bus (k + 1)) ∧
    (scanStart s).selfTestLevel = lineLevel s.cfg.selfTestLine (drawAt s.bus 0) := by
  have hframe : (lampStrobe (displayStrobe s)).cfg = s.cfg ∧ (lampStrobe (displayStrobe s)).swNow = s.swNow ∧
      (lampStrobe (displayStrobe s)).swM1 = s.swM1 ∧ (lampStrobe (displayStrobe s)).swM2 = s.swM2 := by
    rw [lampStrobe_frame, displayStrobe_frame]; exact ⟨rfl, rfl, rfl, rfl⟩
  obtain ⟨hcfg, hnow, hm1, hm2⟩ := hframe
  unfold scanStart
  refine ⟨?_, ?_, ?_, ?_, fun k => ?_, ?_⟩
  · rw [selfTestRead_frame, ← hcfg]
  · rw [selfTestRead_frame, ← hnow]
  · rw [selfTestRead_frame, ← hm1]
  · rw [selfTestRead_frame, ← hm2]
  · rw [selfTestRead_bus, drawAt_read, lampStrobe_draws, (displayStrobe_bus s).2]
  · rw [selfTestRead_level, lampStrobe_draws, (displayStrobe_bus s).2, hcfg]

/-- Settles O35: the history of the groups after the scan, taken at the state where the scan starts. -/
theorem scanPassSamplesEveryGroup : Obligations.ScanPassSamplesEveryGroup := by
  intro s hphase hnow hm1 hm2
  obtain ⟨-, hfNow, hfM1, hfM2, hfLevel, -⟩ := firing_switchFields hphase
  obtain ⟨hcfg, hsNow, hsM1, hsM2, hdraws, hlevel⟩ := scanStart_spec s
  obtain ⟨hscanM2, hscanM1, hscanNow⟩ := switchScan_history (scanStart s)
  have hkeep : (switchScan (scanStart s)).selfTestLevel = (scanStart s).selfTestLevel := by rw [switchScan_frame]
  obtain ⟨hM2, hM1, hNow⟩ := swSampleGroups_history (s := scanStart s) (by rw [hsNow, hnow, hcfg])
    (by rw [hsM1, hm1, hcfg]) (by rw [hsM2, hm2, hcfg]) le_rfl
  refine ⟨?_, ?_, ?_, ?_⟩
  · rw [hfM2, hscanM2, hM2, hsM1, hsM2, hcfg, ← hm1, List.take_length, hm1, ← hm2, List.drop_length, List.append_nil]
  · rw [hfM1, hscanM1, hM1, hsNow, hsM1, hcfg, ← hnow, List.take_length, hnow, ← hm1, List.drop_length,
      List.append_nil]
  · rw [hfNow, hscanNow, hNow, hsNow, hcfg, ← hnow, List.drop_length, List.append_nil]
    simp only [hdraws, swSample]
  · rw [hfLevel, hkeep, hlevel, lineLevel]

/-! ### The event queue -/

/-- What comes to the queue by `swqPush(n)` (R401): nothing for the self-test number when it is the oldest entry, else
`n` behind the others as far as the ring holds them. -/
def enqueue (c : Config) (es : List Byte) (n : Byte) : List Byte :=
  if n = c.swSelfTest ∧ es.head? = some n then es else (es ++ [n]).take (c.swqCap - 1)

/-- The oldest entry of a ring that is not empty. -/
theorem entries_head? {q : Ring} {cap : Nat} (h : q.wf cap = true) :
    q.entries.head? = if q.empty then none else some (q.buf.getD q.head 0#8) := by
  rw [← (popped_spec h).2.2, Ring.pop]
  split <;> rfl

/-- The queue after a push, which the parameters and the queue alone decide. -/
theorem swqPush_swq (n : Byte) (s : State) : (swqPush n s).swq =
    if n == s.cfg.swSelfTest && !s.swq.empty && s.swq.buf.getD s.swq.head 0#8 == n then s.swq
    else s.swq.pushed n := by
  unfold swqPush
  split <;> rfl

theorem swqPush_entries {s : State} (n : Byte) (h : s.swq.wf s.cfg.swqCap = true) :
    (swqPush n s).swq.wf s.cfg.swqCap = true ∧
    (swqPush n s).swq.entries = enqueue s.cfg s.swq.entries n := by
  have hskip : (n == s.cfg.swSelfTest && !s.swq.empty && s.swq.buf.getD s.swq.head 0#8 == n) = true ↔
      n = s.cfg.swSelfTest ∧ s.swq.entries.head? = some n := by
    rw [entries_head? h]
    cases s.swq.empty <;> simp
  rw [swqPush_swq, enqueue]
  by_cases hs : n = s.cfg.swSelfTest ∧ s.swq.entries.head? = some n
  · rw [if_pos (hskip.2 hs), if_pos hs]
    exact ⟨h, rfl⟩
  · rw [if_neg (mt hskip.1 hs), if_neg hs]
    exact ⟨(pushed_spec n h).1, pushed_take n h⟩

/-- `t` is `s` after the switch numbers `ns` were pushed one after another. -/
def Enqueued (ns : List Byte) (s t : State) : Prop :=
  t = { s with swq := t.swq } ∧
  (s.swq.wf s.cfg.swqCap = true →
    t.swq.wf s.cfg.swqCap = true ∧ t.swq.entries = ns.foldl (enqueue s.cfg) s.swq.entries)

theorem Enqueued.refl (s : State) : Enqueued [] s s := ⟨rfl, fun h => ⟨h, rfl⟩⟩

theorem Enqueued.trans {ns ms : List Byte} {s t u : State} (h : Enqueued ns s t) (h' : Enqueued ms t u) :
    Enqueued (ns ++ ms) s u := by
  obtain ⟨hframe, hqueue⟩ := h
  obtain ⟨hframe', hqueue'⟩ := h'
  have hcfg : t.cfg = s.cfg := by rw [hframe]
  refine ⟨by rw [hframe', hframe], fun hwf => ?_⟩
  obtain ⟨hwf', hentries⟩ := hqueue hwf
  obtain ⟨hwf'', hentries'⟩ := hqueue' (hcfg ▸ hwf')
  rw [hcfg] at hwf'' hentries'
  exact ⟨hwf'', by rw [hentries', hentries, List.foldl_append]⟩

theorem swqPush_enqueued (n : Byte) (s : State) : Enqueued [n] s (swqPush n s) :=
  ⟨swqPush_frame n s, swqPush_entries n⟩

/-- A loop pushes what its rounds push, where a round's numbers do not depend on the queue. -/
theorem forUpTo_enqueued {n : Nat} {body : Nat → State → State} {s : State} (ns : Nat → List Byte)
    (hbody : ∀ k t, t = { s with swq := t.swq } → Enqueued (ns k) t (body k t)) :
    Enqueued ((List.range n).flatMap ns) s (forUpTo n body s) := by
  induction n with
  | zero => exact .refl s
  | succ n ih =>
    rw [forUpTo_succ, List.range_succ, List.flatMap_append, List.flatMap_singleton]
    exact ih.trans (hbody n _ ih.1)

/-- The switches of group `g` validated by the last scan pass, as the bytes that are pushed (R404). -/
def validatedInGroup (s : State) (g : Nat) : List Byte :=
  (List.range 8).flatMap fun b => if (swValid s g).getLsbD b then [BitVec.ofNat 8 (8 * g + b)] else []

theorem swEnqueueGroup_enqueued (g : Nat) (s : State) :
    Enqueued (validatedInGroup s g) s (swEnqueueGroup g s) := by
  refine forUpTo_enqueued _ fun b t _ => ?_
  split
  · exact swqPush_enqueued _ t
  · exact .refl t

theorem validatedInGroup_congr {s t : State} (h : t = { s with swq := t.swq }) (g : Nat) :
    validatedInGroup t g = validatedInGroup s g := by
  rw [h]; rfl

/-- A bit of R404's valid byte is the three samples of its switch. -/
theorem getLsbD_swValid (s : State) (g : Nat) {b : Nat} (hb : b < 8) :
    (swValid s g).getLsbD b =
      (bankBit s.swNow (8 * g + b) && bankBit s.swM1 (8 * g + b) && !bankBit s.swM2 (8 * g + b)) := by
  simp only [swValid, bankBit, show (8 * g + b) / 8 = g by omega, show (8 * g + b) % 8 = b by omega,
    BitVec.getLsbD_and, BitVec.getLsbD_not, hb, decide_true, Bool.true_and]

/-- Keeping some elements of a list and mapping them, element by element. -/
theorem map_filter_eq_flatMap {α β : Type} (p : α → Bool) (f : α → β) (l : List α) :
    (l.filter p).map f = l.flatMap fun x => if p x then [f x] else [] := by
  induction l with
  | nil => rfl
  | cons x l ih => cases h : p x <;> simp [h, ih]

/-- The validated switches in ascending order are those of each group in turn. -/
theorem validatedSwitches_eq (s : State) :
    (validatedSwitches s).map (BitVec.ofNat 8) = (List.range s.cfg.numSwGroups).flatMap (validatedInGroup s) := by
  unfold validatedSwitches Config.nsw
  rw [map_filter_eq_flatMap]
  generalize s.cfg.numSwGroups = n
  induction n with
  | zero => rfl
  | succ n ih =>
    rw [Nat.mul_succ, List.range_add, List.flatMap_append, ih, List.range_succ (n := n), List.flatMap_append,
      List.flatMap_singleton, List.flatMap_map]
    congr 1
    refine List.flatMap_congr fun b hb => ?_
    rw [getLsbD_swValid s n (List.mem_range.1 hb)]

/-- The loop over the groups of R403 pushes the validated switches. -/
theorem swEnqueueGroups_enqueued (s : State) :
    Enqueued ((validatedSwitches s).map (BitVec.ofNat 8)) s (forUpTo s.cfg.numSwGroups swEnqueueGroup s) := by
  rw [validatedSwitches_eq]
  refine forUpTo_enqueued _ fun g t ht => ?_
  rw [← validatedInGroup_congr ht]
  exact swEnqueueGroup_enqueued g t

/-- The event queue after a switch scan: the switches that its own samples validate come to the queue (R403). -/
theorem switchScan_swq {s : State} (h : s.swq.wf s.cfg.swqCap = true) :
    (switchScan s).swq.wf s.cfg.swqCap = true ∧
    (switchScan s).swq.entries =
      ((validatedSwitches (switchScan s)).map (BitVec.ofNat 8)).foldl (enqueue s.cfg) s.swq.entries := by
  have hcfg : (forUpTo s.cfg.numSwGroups swSampleGroup s).cfg = s.cfg := (swSampleGroups_bus s _).1
  have hswq : (forUpTo s.cfg.numSwGroups swSampleGroup s).swq = s.swq :=
    forUpTo_field (·.swq) s fun g t => by rw [swSampleGroup_frame]
  have hvalid : validatedSwitches (switchScan s) =
      validatedSwitches (forUpTo s.cfg.numSwGroups swSampleGroup s) := by
    obtain ⟨hM2, hM1, hNow⟩ := switchScan_history s
    have hcfg' : (switchScan s).cfg = s.cfg := by rw [switchScan_frame]
    rw [validatedSwitches, validatedSwitches, hM2, hM1, hNow, hcfg', hcfg]
  obtain ⟨-, hqueue⟩ := swEnqueueGroups_enqueued (forUpTo s.cfg.numSwGroups swSampleGroup s)
  rw [hcfg, hswq] at hqueue
  have hend : (switchScan s).swq =
      (forUpTo s.cfg.numSwGroups swEnqueueGroup (forUpTo s.cfg.numSwGroups swSampleGroup s)).swq := by
    simp only [switchScan, hcfg]
    rw [priorityScan_frame]
  rw [hend, hvalid]
  exact hqueue h

/-- Reading the self-test line pushes its number when its level is active (R406). -/
theorem selfTestRead_swq (s : State) : (selfTestRead s).swq =
    if lineLevel s.cfg.selfTestLine (drawAt s.bus 0) then (swqPush s.cfg.swSelfTest s).swq else s.swq := by
  rw [drawAt_zero]
  unfold selfTestRead
  simp only
  by_cases h : lineLevel s.cfg.selfTestLine s.bus.draw = true
  · rw [if_pos h, if_pos h, swqPush_swq, swqPush_swq]; rfl
  · rw [if_neg h, if_neg h]; rfl

/-- The event queue where the switch scan starts: the self-test event came to it first (R406). -/
theorem scanStart_swq {s : State} (h : s.swq.wf s.cfg.swqCap = true) :
    (scanStart s).swq.wf s.cfg.swqCap = true ∧
    (scanStart s).swq.entries =
      (if lineLevel s.cfg.selfTestLine (drawAt s.bus 0) then [s.cfg.swSelfTest] else []).foldl (enqueue s.cfg)
        s.swq.entries := by
  have hcfg : (lampStrobe (displayStrobe s)).cfg = s.cfg := by rw [lampStrobe_frame, displayStrobe_frame]
  have hswq : (lampStrobe (displayStrobe s)).swq = s.swq := by rw [lampStrobe_frame, displayStrobe_frame]
  obtain ⟨hwf, hentries⟩ := swqPush_entries (s := lampStrobe (displayStrobe s)) s.cfg.swSelfTest (by rwa [hcfg, hswq])
  rw [hcfg, hswq] at hentries
  rw [hcfg] at hwf
  rw [scanStart, selfTestRead_swq, lampStrobe_draws, (displayStrobe_bus s).2, hcfg, hswq]
  split
  · exact ⟨hwf, hentries⟩
  · exact ⟨h, rfl⟩

/-- Numbers other than the self-test number come to the queue as one cut. -/
theorem foldl_enqueue_of_ne {c : Config} {ns : List Byte} (hne : ∀ n ∈ ns, n ≠ c.swSelfTest) {es : List Byte}
    (hes : es.length ≤ c.swqCap - 1) : ns.foldl (enqueue c) es = (es ++ ns).take (c.swqCap - 1) := by
  induction ns generalizing es with
  | nil => simp [List.take_of_length_le hes]
  | cons n ns ih =>
    rw [List.forall_mem_cons] at hne
    obtain ⟨hn, hns⟩ := hne
    rw [List.foldl_cons, enqueue, if_neg (fun h => hn h.1), ih hns (List.length_take_le _ _), take_append_take,
      List.append_assoc, List.singleton_append]

/-- A validated switch is a matrix switch, so its number is not a self-test number outside the matrix. -/
theorem ne_selfTest_of_validated {s : State} (h : 8 * s.cfg.numSwGroups ≤ s.cfg.swSelfTest.toNat) :
    ∀ n ∈ (validatedSwitches s).map (BitVec.ofNat 8), n ≠ s.cfg.swSelfTest := by
  intro n hn heq
  obtain ⟨k, hk, rfl⟩ := List.mem_map.1 hn
  have hlt : k < 8 * s.cfg.numSwGroups := List.mem_range.1 (List.mem_filter.1 hk).1
  have hmod := Nat.mod_le k (2 ^ 8)
  rw [← heq, BitVec.toNat_ofNat] at h
  omega

/-- The self-test event on the queue: nothing where it is the oldest entry already, else one entry behind the others. -/
theorem foldl_enqueue_selfTest {c : Config} (active : Bool) {es : List Byte} (hes : es.length ≤ c.swqCap - 1) :
    (if active then [c.swSelfTest] else []).foldl (enqueue c) es =
      (es ++ if active = true ∧ es.head? ≠ some c.swSelfTest then [c.swSelfTest] else []).take (c.swqCap - 1) := by
  have hstay : es = es.take (c.swqCap - 1) := (List.take_of_length_le hes).symm
  cases active with
  | false => simpa using hstay
  | true =>
    by_cases hhead : es.head? = some c.swSelfTest
    · simpa [enqueue, hhead] using hstay
    · simp [enqueue, hhead]

/-- Settles O36: the self-test event, then the validated switches, come to the queue; where the self-test number is no
matrix switch, both are one cut. -/
theorem validatedClosuresAreQueued : Obligations.ValidatedClosuresAreQueued := by
  intro s hphase hwf
  obtain ⟨hfcfg, hNow, hM1, hM2, -, hfswq⟩ := firing_switchFields hphase
  have hcfg : (scanStart s).cfg = s.cfg := (scanStart_spec s).1
  obtain ⟨hstart_wf, hstart⟩ := scanStart_swq hwf
  obtain ⟨hend_wf, hend⟩ := switchScan_swq (s := scanStart s) (by rwa [hcfg])
  have hvalid : validatedSwitches (switchScan (scanStart s)) = validatedSwitches (firing s) := by
    have hcfg' : (switchScan (scanStart s)).cfg = s.cfg := by rw [switchScan_frame, ← hcfg]
    rw [validatedSwitches, validatedSwitches, hNow, hM1, hM2, hcfg', hfcfg]
  rw [hcfg] at hend_wf hend
  rw [hvalid, hstart] at hend
  refine ⟨lineLevel s.cfg.selfTestLine (drawAt s.bus 0), rfl, by rw [hfswq]; exact hend_wf, ?fold, fun hout => ?cut⟩
  case fold => rw [hfswq, hend, List.foldl_append]; rfl
  case cut =>
    have hroom : s.swq.entries.length ≤ s.cfg.swqCap - 1 := by
      have := count_lt hwf
      rw [entries_length]
      omega
    have hne := ne_selfTest_of_validated (s := firing s) (by rwa [hfcfg])
    rw [hfcfg] at hne
    rw [hfswq, hend, foldl_enqueue_selfTest _ hroom, foldl_enqueue_of_ne hne (List.length_take_le _ _),
      take_append_take]

end Sys2Proof.Proofs
end

section
/-! PROOFS. The invariant of R129 through each procedure of the block: what a procedure writes keeps its clauses. -/

namespace Sys2Proof.Proofs

open Sys2Proof.Machine Sys2Proof.Laws

/-! ### What the clauses need of the parameters and of single values -/

/-- The check of R8 as its groups. -/
theorem legal_iff (c : Config) : c.legal = true ↔
    c.capacitiesLegal = true ∧ c.divisorsLegal = true ∧ c.flashLegal = true ∧ c.switchesLegal = true ∧
    c.priorityTableLegal = true ∧ c.solenoidsLegal = true ∧ c.lampsLegal = true ∧ c.displaysLegal = true ∧
    c.addressesLegal = true := by
  simp only [Config.legal, Bool.and_eq_true, and_assoc]

theorem flashLegal_of_legal {c : Config} (hc : c.legal = true) : c.flashLegal = true := by
  obtain ⟨-, -, hflash, -⟩ := (legal_iff c).1 hc
  exact hflash

/-- An address parameter of a legal configuration names a location of the bus (R8, R201). -/
theorem toNat_lt_of_mem_addresses {c : Config} (hc : c.legal = true) {a : BusAddr} (ha : a ∈ c.addresses) :
    a.toNat < 2 ^ c.busAddrBits := by
  obtain ⟨-, -, -, -, -, -, -, -, haddr⟩ := (legal_iff c).1 hc
  simp only [Config.addressesLegal, Bool.and_eq_true, List.all_eq_true, decide_eq_true_eq] at haddr
  obtain ⟨-, hbits⟩ := haddr
  exact a.value.isLt.trans_le (Nat.pow_le_pow_right (by omega) (hbits a ha))

/-- A mask stays within another exactly when each of its bits does. -/
theorem and_not_eq_zero_iff {w : Nat} (x y : BitVec w) :
    x &&& ~~~y = 0#w ↔ ∀ k, x.getLsbD k = true → y.getLsbD k = true := by
  constructor
  · intro h k hk
    have hkw : k < w := BitVec.lt_of_getLsbD hk
    have hbit : (x &&& ~~~y).getLsbD k = false := by simp [h]
    simpa [hk, hkw] using hbit
  · intro h
    refine BitVec.eq_of_getLsbD_eq fun k hk => ?_
    simpa [hk] using h k

/-- R504's result is 0 or lies in the configured range. -/
theorem flashUnits_range {c : Config} (hc : c.legal = true) (ms : U16) :
    flashUnits c ms = 0#8 ∨
      (c.flashMin.toNat ≤ (flashUnits c ms).toNat ∧ (flashUnits c ms).toNat ≤ c.flashMax.toNat) := by
  obtain ⟨⟨-, hle⟩, -⟩ := (flashLegal_iff c).1 (flashLegal_of_legal hc)
  unfold flashUnits
  split
  · exact .inl rfl
  · right
    have hmax : c.flashMax.toNat < 2 ^ 8 := c.flashMax.isLt
    have hlo : c.flashMin.toNat ≤ clampNat (ms.toNat / c.flashUnitMs.toNat) c.flashMin.toNat c.flashMax.toNat := by
      unfold clampNat; omega
    have hhi : clampNat (ms.toNat / c.flashUnitMs.toNat) c.flashMin.toNat c.flashMax.toNat ≤ c.flashMax.toNat :=
      min_le_right _ _
    rw [BitVec.toNat_ofNat, Nat.mod_eq_of_lt (by omega)]
    exact ⟨hlo, hhi⟩

/-- The mask of the `n` low positions has no bit at or above a position from `n` on. -/
theorem toNat_lowPositions_lt {n m : Nat} (h : n ≤ m) : (lowPositions n).toNat < 2 ^ m := by
  have hpow : 2 ^ n ≤ 2 ^ m := Nat.pow_le_pow_right (by omega) h
  have hpos := Nat.two_pow_pos n
  have hmod := Nat.mod_le (2 ^ n - 1) (2 ^ 8)
  rw [lowPositions, BitVec.toNat_ofNat]
  omega

/-! ### Commands' procedures -/

/-- R129 asks nothing of the responses. -/
theorem respond_inv {s : State} (r : List Byte) (h : s.Inv) : (respond r s).Inv := { h with }

/-- R129 asks nothing of the error fields. -/
theorem commandError_inv {s : State} (e : CommandError) (h : s.Inv) : (commandError e s).Inv := { h with }

/-- Pulses of a solenoid that exists are all that is pushed (R453). -/
theorem solPushPulsed_inv {s : State} (id n : Byte) (o : Bool) (h : s.Inv) : (solPushPulsed id n o s).Inv := by
  unfold solPushPulsed
  split
  · exact h
  · split
    · exact h
    · rename_i hid _
      obtain ⟨hwf, hentries⟩ := pushBackN_spec id n.toNat h.solq
      refine { h with solq := hwf, solqIds := ?_ }
      rw [hentries]
      simp only [List.mem_append, List.mem_replicate]
      rintro x (hx | ⟨-, rfl⟩)
      · exact h.solqIds x hx
      · simpa [solenoidExists] using hid

theorem solPushPriority_inv {s : State} (id n : Byte) (h : s.Inv) : (solPushPriority id n s).Inv := by
  unfold solPushPriority
  split
  · exact h
  · split
    · exact h
    · rename_i hid _
      obtain ⟨hwf, hentries⟩ := pushFrontN_spec id n.toNat h.solq
      refine { h with solq := hwf, solqIds := ?_ }
      rw [hentries]
      simp only [List.mem_append, List.mem_replicate]
      rintro x (⟨-, rfl⟩ | hx)
      · simpa [solenoidExists] using hid
      · exact h.solqIds x hx

/-- Writing a timed solenoid slot keeps R129 (j) when an active entry names a solenoid. -/
theorem setTsol_inv {s : State} (i : Nat) (e : TimedSol) (h : s.Inv)
    (he : e.active = true → e.sol.toNat < s.cfg.numSolenoids) : State.Inv { s with tsol := s.tsol.set i e } where
  __ := h
  slots := by simpa using h.slots
  tsolIds e' he' := by
    rcases List.mem_or_eq_of_mem_set he' with hold | rfl
    · exact h.tsolIds e' hold
    · exact he

theorem setTsnd_inv {s : State} (i : Nat) (e : TimedSnd) (h : s.Inv) :
    State.Inv { s with tsnd := s.tsnd.set i e } :=
  { h with slots := by simpa using h.slots }

theorem timedSolScan_inv {s : State} (t : U32) (h : s.Inv) : (timedSolScan t s).Inv := by
  refine forUpTo_keeps h fun i _ u hu => ?_
  unfold timedSolSlot
  split
  · exact hu
  · split
    · exact solPushPulsed_inv _ _ _ (setTsol_inv i _ hu (by simp))
    · exact hu

theorem sndPush_inv {s : State} (v : Byte) (h : s.Inv) : (sndPush v s).Inv := by
  unfold sndPush
  split
  · exact h
  · exact { h with sndq := (pushed_spec v h.sndq).1 }

theorem timedSndScan_inv {s : State} (t : U32) (h : s.Inv) : (timedSndScan t s).Inv := by
  refine forUpTo_keeps h fun i _ u hu => ?_
  unfold timedSndSlot
  split
  · exact hu
  · split
    · exact sndPush_inv _ (setTsnd_inv i _ hu)
    · exact hu

/-- Flashing writes bits of the lamp state alone. -/
theorem applyFlash_inv {s : State} (t : U32) (h : s.Inv) : (applyFlash t s).Inv := by
  refine forUpTo_keeps h fun l _ u hu => ?_
  unfold applyFlashLamp
  simp only
  split
  · exact hu
  · exact { hu with lampBanks := by simpa using hu.lampBanks }

/-- Lamp arrays of the right lengths, with every period 0 or in range, are all R129 asks of the lamps. -/
theorem setLamps_inv {s : State} (state dim1 dim2 periods : List Byte) (h : s.Inv)
    (hlen : state.length = s.lampState.length ∧ dim1.length = s.lampDim1.length ∧
      dim2.length = s.lampDim2.length ∧ periods.length = s.flashPeriod.length)
    (hflash : ∀ p ∈ periods, p = 0#8 ∨ (s.cfg.flashMin.toNat ≤ p.toNat ∧ p.toNat ≤ s.cfg.flashMax.toNat)) :
    State.Inv { s with lampState := state, lampDim1 := dim1, lampDim2 := dim2, flashPeriod := periods } where
  __ := h
  flash := hflash
  lampBanks := by
    obtain ⟨hstate, hdim1, hdim2, hperiods⟩ := hlen
    simpa only [hstate, hdim1, hdim2, hperiods] using h.lampBanks

/-- R129 (d) as SET_CONTINUOUS keeps it: an accepted id has its bit among the allowed ones. -/
theorem setContinuousBit_inv {s : State} (id : Byte) (h : s.Inv) (hid : continuousAllowed s.cfg id = true) :
    State.Inv { s with contMask := s.contMask ||| bit32 id.toNat } where
  __ := h
  contMask := by
    have hold := (and_not_eq_zero_iff _ _).1 h.contMask
    simp only [continuousAllowed, solenoidExists, Bool.and_eq_true, decide_eq_true_eq] at hid
    obtain ⟨hexists, hallowed⟩ := hid
    refine (and_not_eq_zero_iff _ _).2 fun k hk => ?_
    have hk32 : k < 32 := BitVec.lt_of_getLsbD hk
    rw [BitVec.getLsbD_or, getLsbD_bit32 _ hk32, Bool.or_eq_true, decide_eq_true_eq] at hk
    rcases hk with hk | rfl
    · exact hold k hk
    · rw [BitVec.getLsbD_and, getLsbD_idMask _ hk32, hallowed]
      simpa using hexists

theorem clearContinuousBit_inv {s : State} (id : Byte) (h : s.Inv) :
    State.Inv { s with contMask := s.contMask &&& ~~~bit32 id.toNat } where
  __ := h
  contMask := by
    have hold := (and_not_eq_zero_iff _ _).1 h.contMask
    refine (and_not_eq_zero_iff _ _).2 fun k hk => hold k ?_
    rw [BitVec.getLsbD_and, Bool.and_eq_true] at hk
    obtain ⟨hbit, -⟩ := hk
    exact hbit

/-- Writing a display keeps R129 (g) when its mask and digits fit P_DIGITS. -/
theorem setDisplay_inv {s : State} {i : Nat} (hi : i < 5) (d : Display) (h : s.Inv)
    (hmask : d.mask.toNat < 2 ^ s.cfg.digits) (hdigits : d.digits.length = s.cfg.digits) :
    State.Inv { s with displays := s.displays.set i d } where
  __ := h
  dispMask k := by
    rw [Fin.getElem_fin, Vector.getElem_set]
    split
    · exact hmask
    · exact h.dispMask k
  displayDigits k := by
    rw [Fin.getElem_fin, Vector.getElem_set]
    split
    · exact hdigits
    · exact h.displayDigits k

/-! ### The bus -/

theorem busWrite_inv {s : State} {a : Nat} (v : Byte) (h : s.Inv) (ha : a < 2 ^ s.cfg.busAddrBits) :
    (busWrite a v s).Inv :=
  { h with
    latched := ⟨write_wf _ a v h.latched.1, write_forall (· < 2 ^ s.cfg.busAddrBits) _ a v h.latched.2 ha⟩ }

/-- A write to an address parameter. -/
theorem busWrite_addr_inv {s : State} {a : BusAddr} (v : Byte) (h : s.Inv) (ha : a ∈ s.cfg.addresses) :
    (busWrite a.toNat v s).Inv :=
  busWrite_inv v h (toNat_lt_of_mem_addresses h.legal ha)

theorem busRead_inv {s : State} (a : Nat) (h : s.Inv) : (busRead a s).Inv := { h with }

theorem selfCheckFrom_inv (es : List SelfCheckEntry) : ∀ (k : Nat) (m : Byte) {s : State}, s.Inv →
    (∀ e ∈ es, e.addr ∈ s.cfg.addresses) → (selfCheckFrom es k (m, s)).2.Inv := by
  induction es with
  | nil => intro k m s h _; exact h
  | cons e rest ih =>
    intro k m s h hes
    obtain ⟨he, hrest⟩ := List.forall_mem_cons.1 hes
    exact ih _ _ (busRead_inv _ (busWrite_addr_inv _ h he)) hrest

/-! ### The parts of a firing -/

theorem displayStrobe_inv {s : State} (h : s.Inv) : (displayStrobe s).Inv := by
  unfold displayStrobe
  split
  · exact h
  · rename_i x _
    have hselect := busWrite_addr_inv (a := s.cfg.dispSelectAddr) x.sel h (by simp [Config.addresses])
    have hdata := busWrite_addr_inv (a := s.cfg.dispDataAddr) (slotData s x) hselect (by simp [Config.addresses])
    exact { hdata with dispPos := Nat.mod_lt _ (Nat.zero_lt_of_lt h.dispPos) }

theorem lampStrobe_inv {s : State} (h : s.Inv) : (lampStrobe s).Inv := by
  have hselect := busWrite_addr_inv (a := s.cfg.lampSelectAddr) (BitVec.ofNat 8 s.lampBank) h
    (by simp [Config.addresses])
  have hdata := busWrite_addr_inv (a := s.cfg.lampDataAddr) (lampData s s.lampBank) hselect
    (by simp [Config.addresses])
  have hbank := h.lampBank
  unfold lampStrobe
  simp only
  split
  · exact { hdata with lampBank := Nat.zero_lt_of_lt hbank }
  · rename_i hlast
    have hnext : s.lampBank + 1 < s.cfg.numLampBanks := by
      rw [busWrite_cfg, busWrite_cfg] at hlast
      omega
    exact { hdata with lampBank := hnext }

theorem swqPush_inv {s : State} (n : Byte) (h : s.Inv) : (swqPush n s).Inv := by
  rw [swqPush_frame]
  exact { h with swq := (swqPush_entries n h.swq).1 }

theorem selfTestRead_inv {s : State} (h : s.Inv) : (selfTestRead s).Inv := by
  have hread := busRead_inv s.cfg.selfTestLine.addr.toNat h
  unfold selfTestRead
  simp only
  split
  · exact swqPush_inv _ { hread with }
  · exact { hread with }

theorem swSampleGroup_inv {s : State} (g : Nat) (h : s.Inv) : (swSampleGroup g s).Inv := by
  have hshift : (swShift g s).Inv := { h with switchBanks := by simpa [swShift] using h.switchBanks }
  have hstrobe := busWrite_addr_inv (a := s.cfg.swStrobeAddr) (s.cfg.swStrobeValue.getD g 0#8) hshift
    (by simp [Config.addresses, swShift])
  have hread := busRead_inv s.cfg.swReturnAddr.toNat hstrobe
  exact { hread with switchBanks := by simpa [swSampleGroup] using hread.switchBanks }

theorem swEnqueueGroup_inv {s : State} (g : Nat) (h : s.Inv) : (swEnqueueGroup g s).Inv := by
  refine forUpTo_keeps h fun b _ u hu => ?_
  split
  · exact swqPush_inv _ hu
  · exact hu

theorem priorityScan_inv {s : State} (h : s.Inv) : (priorityScan s).Inv := by
  unfold priorityScan
  generalize s.cfg.priorityTable = es
  induction es generalizing s with
  | nil => exact h
  | cons e rest ih =>
    refine ih ?_
    unfold priorityStep
    simp only
    split
    · exact solPushPriority_inv _ _ h
    · exact h

theorem switchScan_inv {s : State} (h : s.Inv) : (switchScan s).Inv :=
  priorityScan_inv <|
    forUpTo_keeps (forUpTo_keeps h fun g _ _ hu => swSampleGroup_inv g hu) fun g _ _ hu => swEnqueueGroup_inv g hu

/-- R129 asks nothing of the phase and the counts. -/
theorem setCounts_inv {s : State} (p : Phase) (ticks scans : U32) (h : s.Inv) :
    State.Inv { s with phase := p, tickCount := ticks, scanCount := scans } :=
  { h with }

theorem scanPass_inv {s : State} (h : s.Inv) : (scanPass s).Inv :=
  setCounts_inv _ _ _ (switchScan_inv (selfTestRead_inv (lampStrobe_inv h)))

/-- What a well-formed ring loses by a pop leaves only entries it held. -/
theorem popSolq_inv {s : State} (h : s.Inv) : State.Inv { s with solq := s.solq.popped } := by
  obtain ⟨hwf, hentries, -⟩ := popped_spec h.solq
  exact { h with solq := hwf, solqIds := fun x hx => h.solqIds x (List.mem_of_mem_tail (hentries ▸ hx)) }

/-- The solenoid bytes' addresses wrap within the address space (log 9). -/
theorem solWrite_inv {s : State} (pat : U32) (h : s.Inv) : (solWrite pat s).Inv :=
  forUpTo_keeps h fun _ _ _ hu => busWrite_inv _ hu (Nat.mod_lt _ (Nat.two_pow_pos _))

theorem solenoidActuate_inv {s : State} (h : s.Inv) : (solenoidActuate s).Inv := solWrite_inv _ (popSolq_inv h)

theorem soundActuate_inv {s : State} (h : s.Inv) : (soundActuate s).Inv := by
  obtain ⟨hwf, -, -⟩ := popped_spec h.sndq
  have hpop : State.Inv { s with sndq := s.sndq.popped } := { h with sndq := hwf }
  exact busWrite_addr_inv _ hpop (by simp [Config.addresses])

theorem upDownDebounce_inv {s : State} (h : s.Inv) : (upDownDebounce s).Inv := by
  have hread := busRead_inv s.cfg.udLine.addr.toNat h
  have htimer := h.udTimer
  unfold upDownDebounce
  simp only
  split
  · rename_i hlockout
    have hdown : (s.udTimer - 1#8).toNat ≤ s.cfg.udTimeout.toNat := by
      rw [busRead_udTimer] at hlockout
      bv_omega
    exact { hread with udTimer := hdown }
  · split
    · exact { hread with udTimer := le_rfl }
    · exact hread

theorem firingWork_inv {s : State} (h : s.Inv) : (firingWork s).Inv := by
  cases hphase : s.phase with
  | A => rw [firingWork_A hphase]; exact scanPass_inv (displayStrobe_inv h)
  | B => rw [firingWork_B hphase]; exact soundActuate_inv (solenoidActuate_inv (displayStrobe_inv h))

/-- A firing keeps the invariant: its work does, then the up/down procedure. -/
theorem firing_inv {s : State} (h : s.Inv) : (firing s).Inv := by
  rw [firing_eq]
  exact setCounts_inv _ _ _ (upDownDebounce_inv (firingWork_inv h))

theorem timerEvent_inv {s : State} (h : s.Inv) : (timerEvent s).Inv := by
  unfold timerEvent
  split
  · exact h
  · split
    · exact { h with }
    · exact firing_inv h

theorem pendingTurn_inv {s : State} (h : s.Inv) : (pendingTurn s).Inv := by
  unfold pendingTurn
  split
  · exact firing_inv { h with }
  · exact h

/-! ### RESET -/

/-- The reset values of R130 under any legal configuration (R129). -/
theorem resetOf_inv {c : Config} (hc : c.legal = true) : (State.resetOf c).Inv := by
  obtain ⟨hcap, hdiv, -, -, -, -, hlamps, hdisp, -⟩ := (legal_iff c).1 hc
  obtain ⟨⟨hswq, -⟩, ⟨hsolq, -⟩, -, ⟨hsndq, -⟩, -⟩ := (capacitiesLegal_iff c).1 hcap
  obtain ⟨-, -, hdim1, hdim2⟩ := (divisorsLegal_iff c).1 hdiv
  obtain ⟨hbanks, -⟩ := (lampsLegal_iff c).1 hlamps
  obtain ⟨-, hslots, -⟩ := (displaysLegal_iff c).1 hdisp
  exact {
    legal := hc
    swq := emptyOf_wf (by omega)
    solq := emptyOf_wf (by omega)
    sndq := emptyOf_wf (by omega)
    solqIds := by simp [State.resetOf, emptyOf_entries]
    contMask := BitVec.zero_and
    flash := fun p hp => .inl (List.eq_of_mem_replicate hp)
    dispMask := fun d => by simp [State.resetOf]
    dimDiv := ⟨bne_iff_ne.1 ((bne_zero_iff _).2 hdim1), bne_iff_ne.1 ((bne_zero_iff _).2 hdim2)⟩
    udTimer := Nat.zero_le _
    tsolIds := fun e he => by simp [List.eq_of_mem_replicate he]
    lampBank := hbanks
    dispPos := hslots
    switchBanks := by simp [State.resetOf]
    lampBanks := by simp [State.resetOf]
    slots := by simp [State.resetOf]
    displayDigits := fun d => by simp [State.resetOf]
    latched := by simp [State.resetOf, Memory.wf] }

theorem resetFields_inv {s : State} (h : s.Inv) : (resetFields s).Inv :=
  { resetOf_inv h.legal with latched := h.latched }

/-- The default column of R8 passes R8's check; no OPEN value has a say in it. -/
theorem default_legal : Config.default.legal = true := by decide

/-- Settles O14: the reset values under the default parameters. -/
theorem resetStateHasInvariant : Obligations.ResetStateHasInvariant := resetOf_inv default_legal

/-- Settles O15: each field of `resetFields` is R130's value by definition. -/
theorem resetSetsEveryField : Obligations.ResetSetsEveryField := by
  refine ⟨by decide, fun s => ⟨respond [] (resetFields s), rfl, ?_⟩⟩
  have hdisplays (d : Fin 5) :
      (resetFields s).displays[d] = { digits := List.replicate s.cfg.digits 0, mask := 0#8 } := by
    simp [resetFields, State.resetOf]
  have hstatus : statusByte (respond [] (resetFields s)) = 0x01#8 := by simp [statusByte, resetFields, State.resetOf]
  exact ⟨rfl, rfl, rfl, rfl, rfl, rfl, rfl, rfl, rfl, rfl, rfl, rfl, rfl, rfl, rfl, rfl, rfl, rfl, rfl, rfl, rfl, rfl,
    rfl, rfl, rfl, rfl, rfl, rfl, rfl, rfl, rfl, rfl, rfl, hdisplays, rfl, rfl, rfl, rfl, rfl, hstatus⟩

end Sys2Proof.Proofs
end

section
/-! PROOFS. What a command can do: its frame, the invariant of R129, and what comes to the sound stack. -/

namespace Sys2Proof.Proofs

open Sys2Proof.Machine Sys2Proof.Laws

/-- What holds of a command's effect holds of the state it completes in. -/
theorem of_whenInitialised {P : State → Prop} {s e t : State} (h : whenInitialised s e = .next t) (he : P e) :
    P t := by
  obtain ⟨-, rfl⟩ := (whenInitialised_next s e t).1 h
  exact he

/-! ### The frame of the commands -/

/-- The sound stack after a command other than RESET: a push and the timed scan of an UPDATE alone write it. -/
def sndqAfter : Instr → State → Machine.Ring
  | .pushSound v, s => (sndPush v s).sndq
  | .update t, s => (timedSndScan t (timedSolScan t s)).sndq
  | _, s => s.sndq

/-- The fields that only RESET and firings write are as before, the sound stack is as said, and the sticky error is at
most set. -/
def CommandFrame (i : Instr) (s t : State) : Prop :=
  t = { t with
    cfg := s.cfg, init := s.init, firePending := s.firePending, errSticky := s.errSticky || t.errSticky
    phase := s.phase, tickCount := s.tickCount, scanCount := s.scanCount, lampCycle := s.lampCycle
    swNow := s.swNow, swM1 := s.swM1, swM2 := s.swM2, selfTestLevel := s.selfTestLevel, lampBank := s.lampBank
    dispPos := s.dispPos, sndq := sndqAfter i s, udTimer := s.udTimer, inputs := s.inputs }

/-- An effect that does not set the sticky error. -/
theorem CommandFrame.of_eq {i : Instr} {s t : State} (h : t = { t with
      cfg := s.cfg, init := s.init, firePending := s.firePending, errSticky := s.errSticky
      phase := s.phase, tickCount := s.tickCount, scanCount := s.scanCount, lampCycle := s.lampCycle
      swNow := s.swNow, swM1 := s.swM1, swM2 := s.swM2, selfTestLevel := s.selfTestLevel, lampBank := s.lampBank
      dispPos := s.dispPos, sndq := sndqAfter i s, udTimer := s.udTimer, inputs := s.inputs }) :
    CommandFrame i s t := by
  rw [CommandFrame, h]
  simp

/-- Every command but RESET keeps the frame. -/
theorem exec_frame {i : Instr} {s t : State} (hi : i ≠ .reset) (h : exec i s = .next t) : CommandFrame i s t := by
  cases i with
  | reset => exact absurd rfl hi
  | selfCheck =>
    refine of_whenInitialised h ?_
    split
    · simp [CommandFrame, commandError, sndqAfter]
    · exact .of_eq (by dsimp only; rw [selfCheckFrom_frame]; rfl)
  | update u =>
    refine of_whenInitialised h (.of_eq ?_)
    rw [sndqAfter, applyFlash_frame, timedSndScan_frame, timedSolScan_frame]
    rfl
  | pullEvent => exact of_whenInitialised h (.of_eq (by split <;> rfl))
  | pushPulsed a b c => exact of_whenInitialised h (.of_eq (by rw [solPushPulsed_frame]; rfl))
  | pushPriority a b => exact of_whenInitialised h (.of_eq (by rw [solPushPriority_frame]; rfl))
  | pushTimed a b u c => exact of_whenInitialised h (.of_eq (by split <;> [rfl; split <;> rfl]))
  | setContinuous a b => exact of_whenInitialised h (.of_eq (by split <;> [rfl; split <;> rfl]))
  | setLamp a b c m => exact of_whenInitialised h (.of_eq (by split <;> rfl))
  | flashAll u => exact of_whenInitialised h (.of_eq (by rw [applyFlash_frame]; rfl))
  | setDimDivisors a b => exact of_whenInitialised h (.of_eq (by split <;> rfl))
  | setDigits a v b c => exact of_whenInitialised h (.of_eq (by split <;> rfl))
  | setBlankMask a b => exact of_whenInitialised h (.of_eq (by split <;> rfl))
  | pushSound a => exact of_whenInitialised h (.of_eq (by rw [sndqAfter, sndPush_frame]; rfl))
  | pushTimedSound a u => exact of_whenInitialised h (.of_eq (by split <;> [rfl; split <;> rfl]))
  | irqSuspend | irqResume | readStatus | readUpdown | readLevel | solDisable | solEnable | readContMask
  | readLampState | readLampDim | readLampFlash | lampsOffAll | setCredits | setBip | setSoundRange =>
    exact of_whenInitialised h (.of_eq rfl)

/-! ### The invariant -/

/-- Every command keeps the invariant of R129. -/
theorem exec_inv {i : Instr} {s t : State} (h : s.Inv) (he : exec i s = .next t) : t.Inv := by
  cases i with
  | reset =>
    cases he
    exact respond_inv _ (resetFields_inv h)
  | selfCheck =>
    refine of_whenInitialised he ?_
    split
    · exact commandError_inv _ h
    · exact respond_inv _ (selfCheckFrom_inv _ _ _ h fun e he => List.mem_append_right _ (List.mem_map_of_mem he))
  | update u =>
    exact of_whenInitialised he (respond_inv _ (applyFlash_inv u (timedSndScan_inv u (timedSolScan_inv u h))))
  | pullEvent =>
    refine of_whenInitialised he ?_
    split
    · exact respond_inv _ h
    · rename_i x q hpop
      exact respond_inv _ { h with swq := (pop_some h.swq hpop).1 }
  | pushPulsed a b c => exact of_whenInitialised he (respond_inv _ (solPushPulsed_inv _ _ _ h))
  | pushPriority a b => exact of_whenInitialised he (respond_inv _ (solPushPriority_inv _ _ h))
  | pushTimed a b u c =>
    refine of_whenInitialised he ?_
    split
    · exact respond_inv _ h
    · rename_i hid
      split
      · exact respond_inv _ (setTsol_inv _ _ h fun _ => by simpa [solenoidExists] using hid)
      · exact respond_inv _ h
  | setContinuous a b =>
    refine of_whenInitialised he (respond_inv _ ?_)
    split
    · exact h
    · rename_i hid
      split
      · exact setContinuousBit_inv a h (by simpa using hid)
      · exact clearContinuousBit_inv a h
  | setLamp a b c m =>
    refine of_whenInitialised he (respond_inv _ ?_)
    split
    · exact h
    · refine setLamps_inv _ _ _ _ h (by simp) fun p hp => ?_
      rcases List.mem_or_eq_of_mem_set hp with hold | rfl
      · exact h.flash p hold
      · exact flashUnits_range h.legal m
  | lampsOffAll =>
    refine of_whenInitialised he (respond_inv _ (setLamps_inv _ _ _ _ h (by simp) fun p hp => .inl ?_))
    obtain ⟨-, -, rfl⟩ := List.mem_map.1 hp
    rfl
  | flashAll u =>
    refine of_whenInitialised he (respond_inv _ (applyFlash_inv u ?_))
    refine setLamps_inv _ _ _ _ h (by simp) fun p hp => .inr ?_
    obtain ⟨-, -, rfl⟩ := List.mem_map.1 hp
    obtain ⟨-, hrange⟩ := (flashLegal_iff _).1 (flashLegal_of_legal h.legal)
    exact hrange
  | setDimDivisors a b =>
    refine of_whenInitialised he (respond_inv _ ?_)
    split
    · exact h
    · rename_i hzero
      exact { h with dimDiv := by simpa using hzero }
  | setDigits a v b c =>
    refine of_whenInitialised he (respond_inv _ ?_)
    split
    · rename_i ha
      refine setDisplay_inv ha _ h ?_ (by simp)
      simp only
      split
      · exact toNat_lowPositions_lt (min_le_left _ _)
      · exact h.dispMask ⟨a.toNat, ha⟩
    · exact h
  | setBlankMask a b =>
    refine of_whenInitialised he (respond_inv _ ?_)
    split
    · rename_i ha
      refine setDisplay_inv ha _ h ?_ (h.displayDigits ⟨a.toNat, ha⟩)
      exact Nat.and_le_right.trans_lt (toNat_lowPositions_lt le_rfl)
    · exact h
  | pushSound a => exact of_whenInitialised he (respond_inv _ (sndPush_inv a h))
  | pushTimedSound a u =>
    refine of_whenInitialised he ?_
    split
    · exact respond_inv _ h
    · split
      · exact respond_inv _ (setTsnd_inv _ _ h)
      · exact respond_inv _ h
  | irqSuspend | irqResume | readStatus | readUpdown | readLevel | solDisable | solEnable | readContMask
  | readLampState | readLampDim | readLampFlash | setCredits | setBip | setSoundRange =>
    exact of_whenInitialised he { h with }

/-! ### The sound stack: R129 (c) -/

/-- What R129 (c) says of a step from `s` that leaves the sound stack `q`: entries go from the front, and those that
come behind lie in the legal range of `s`. -/
def SoundsLegal (s : State) (q : Machine.Ring) : Prop :=
  ∃ kept added, q.entries = kept ++ added ∧ kept <:+ s.sndq.entries ∧
    ∀ x ∈ added, s.sndLo.toNat ≤ x.toNat ∧ x.toNat ≤ s.sndHi.toNat

theorem SoundsLegal.unchanged (s : State) : SoundsLegal s s.sndq :=
  ⟨s.sndq.entries, [], by simp, List.suffix_rfl, by simp⟩

theorem SoundsLegal.popped {s : State} (h : s.sndq.wf s.cfg.sndqCap = true) : SoundsLegal s s.sndq.popped :=
  ⟨s.sndq.entries.tail, [], by simp [(popped_spec h).2.1], List.tail_suffix _, by simp⟩

/-- `u` stands within a step from `s`: the range is the same, and the sound stack is as R129 (c) says. -/
structure SoundsSince (s u : State) : Prop where
  wf : u.sndq.wf s.cfg.sndqCap = true
  lo : u.sndLo = s.sndLo
  hi : u.sndHi = s.sndHi
  sounds : SoundsLegal s u.sndq

/-- A push of R600 adds a value of the range, or nothing. -/
theorem SoundsSince.push {s u : State} (v : Byte) (h : SoundsSince s u) : SoundsSince s (sndPush v u) := by
  obtain ⟨hwf, hlo, hhi, kept, added, hentries, hkept, hadded⟩ := h
  unfold sndPush
  split
  · exact ⟨hwf, hlo, hhi, kept, added, hentries, hkept, hadded⟩
  · rename_i hlegal
    obtain ⟨hpushed_wf, hpushed⟩ := pushed_spec v hwf
    refine ⟨hpushed_wf, hlo, hhi, ?_⟩
    rw [SoundsLegal, hpushed, hentries]
    split
    · exact ⟨kept, added, rfl, hkept, hadded⟩
    · refine ⟨kept, added ++ [v], List.append_assoc .., hkept, List.forall_mem_append.2 ⟨hadded, ?_⟩⟩
      simpa [sndLegal, hlo, hhi] using hlegal

/-- The timed scan pushes one value after another (R603). -/
theorem SoundsSince.timedScan {s u : State} (t : U32) (h : SoundsSince s u) : SoundsSince s (timedSndScan t u) := by
  refine forUpTo_keeps h fun i _ w hw => ?_
  unfold timedSndSlot
  split
  · exact hw
  · split
    · exact .push _ { hw with }
    · exact hw

/-- The sound stack after a command other than RESET. -/
theorem sndqAfter_legal (i : Instr) {s : State} (h : s.Inv) : SoundsLegal s (sndqAfter i s) := by
  cases i with
  | pushSound v => exact (SoundsSince.push v ⟨h.sndq, rfl, rfl, .unchanged s⟩).sounds
  | update t =>
    have hscan : SoundsSince s (timedSolScan t s) := by
      rw [timedSolScan_frame]
      exact ⟨h.sndq, rfl, rfl, .unchanged s⟩
    exact (hscan.timedScan t).sounds
  | _ => exact .unchanged s

/-- R129 (c) of a command: after RESET the stack is empty, and any other command leaves what its frame says. -/
theorem exec_sounds {i : Instr} {s t : State} (h : s.Inv) (he : exec i s = .next t) : SoundsLegal s t.sndq := by
  by_cases hi : i = .reset
  · subst hi
    cases he
    exact ⟨[], [], emptyOf_entries _, List.nil_suffix, by simp⟩
  · have hframe : t.sndq = sndqAfter i s := by rw [exec_frame hi he]
    rw [hframe]
    exact sndqAfter_legal i h

/-- A firing leaves the sound stack in phase A and takes its first entry in phase B. -/
theorem firing_sndq (s : State) : (firing s).sndq = if s.phase = .A then s.sndq else s.sndq.popped := by
  rw [firing_eq, upDownDebounce_frame]
  cases h : s.phase with
  | A => rw [firingWork_A h, scanPass_frame, displayStrobe_frame]; rfl
  | B => rw [firingWork_B h, actuatePass_frame, displayStrobe_frame]; rfl

theorem firing_sounds {s : State} (h : s.Inv) : SoundsLegal s (firing s).sndq := by
  rw [firing_sndq]
  split
  · exact .unchanged s
  · exact .popped h.sndq

theorem timerEvent_sounds {s : State} (h : s.Inv) : SoundsLegal s (timerEvent s).sndq := by
  unfold timerEvent
  split
  · exact .unchanged s
  · split
    · exact .unchanged s
    · exact firing_sounds h

theorem pendingTurn_sounds {s : State} (h : s.Inv) : SoundsLegal s (pendingTurn s).sndq := by
  unfold pendingTurn
  split
  · exact firing_sounds (s := { s with firePending := false }) { h with }
  · exact .unchanged s

/-! ### Every step -/

/-- A frame that is taken keeps R129, clause (c) with it: by its command, or by the recorded error. -/
theorem runFrame_keeps {f : Frame} {s t : State} (h : s.Inv) (hrun : runFrame f s = .next t) :
    t.Inv ∧ SoundsLegal s t.sndq := by
  obtain ⟨i, -, he⟩ | ⟨e, -, -, rfl⟩ := runFrame_cases hrun
  · exact ⟨exec_inv h he, exec_sounds h he⟩
  · exact ⟨commandError_inv e h, .unchanged s⟩

/-- Settles O13: the state whose input is taken has the invariant too, and each of the four things a step can do keeps
it. -/
theorem stepKeepsInvariant : Obligations.StepKeepsInvariant := by
  intro s t h hstep
  have htaken : ∀ rest, State.Inv { s with inputs := rest } := fun _ => { h with }
  change t.Inv ∧ SoundsLegal s t.sndq
  obtain ⟨-, ⟨-, rfl⟩ | ⟨f, rest, -, hrun⟩ | ⟨rest, -, rfl⟩ | ⟨rest, -, rfl⟩⟩ := step_cases hstep
  · exact ⟨h, .unchanged t⟩
  · exact runFrame_keeps (s := { s with inputs := rest }) (htaken rest) hrun
  · exact ⟨timerEvent_inv (htaken rest), timerEvent_sounds (htaken rest)⟩
  · exact ⟨pendingTurn_inv (htaken rest), pendingTurn_sounds (htaken rest)⟩

theorem timerEvent_errSticky (s : State) : (timerEvent s).errSticky = s.errSticky := by
  unfold timerEvent
  split
  · rfl
  · split
    · rfl
    · rw [firing_frame]

theorem pendingTurn_errSticky (s : State) : (pendingTurn s).errSticky = s.errSticky := by
  unfold pendingTurn
  split
  · rw [firing_frame]
  · rfl

/-- A frame that is taken keeps the sticky error unless it is a RESET: the commands' frame keeps it, an error
sets it. -/
theorem runFrame_errSticky {f : Frame} {s t : State} (hf : decode f ≠ .ok .reset) (hrun : runFrame f s = .next t)
    (herr : s.errSticky = true) : t.errSticky = true := by
  obtain ⟨i, hdec, he⟩ | ⟨e, -, -, rfl⟩ := runFrame_cases hrun
  · have hi : i ≠ .reset := fun hi => hf (hi ▸ hdec)
    have hframe : t.errSticky = (s.errSticky || t.errSticky) := congrArg State.errSticky (exec_frame hi he)
    rw [hframe, herr, Bool.true_or]
  · rfl

/-- Settles O20: only a frame can clear the error, and only one that decodes to RESET. -/
theorem onlyResetClearsTheError : Obligations.OnlyResetClearsTheError := by
  intro s t hstep herr
  obtain ⟨-, ⟨-, rfl⟩ | ⟨f, rest, hin, hrun⟩ | ⟨rest, -, rfl⟩ | ⟨rest, -, rfl⟩⟩ := step_cases hstep
  · exact .inl herr
  · by_cases hf : decode f = .ok .reset
    · exact .inr ⟨f, rest, hin, hf⟩
    · exact .inl (runFrame_errSticky hf hrun herr)
  · exact .inl ((timerEvent_errSticky _).trans herr)
  · exact .inl ((pendingTurn_errSticky _).trans herr)

end Sys2Proof.Proofs
end

section
/-! PROOFS. What a command leaves of the bus (R212) and of the suspension (R213, R700, R702, R703). -/

namespace Sys2Proof.Proofs

open Sys2Proof.Machine Sys2Proof.Laws

/-- Settles O6: the first input is the frame, and the frame decodes. -/
theorem frameRunsItsCommand : Obligations.FrameRunsItsCommand := by
  intro s f rest i hlegal hin hdec
  have hrun : runFrame f { s with inputs := rest } = exec i { s with inputs := rest } := by simp [runFrame, hdec]
  rw [step, hin]
  exact (whenConfigured_legal hlegal _).trans hrun

/-- Whether the source is suspended after a command: RESET and IRQ_SUSPEND suspend it, IRQ_RESUME ends that. -/
def suspendedAfter : Instr → State → Bool
  | .reset, _ | .irqSuspend, _ => true
  | .irqResume, _ => false
  | _, s => s.irqSuspended

/-- Every command but SELF_CHECK leaves the bus as it was, and the suspension is as said. -/
def BusAndSuspension (i : Instr) (s t : State) : Prop :=
  (i ≠ .selfCheck → t.bus = s.bus) ∧ t.irqSuspended = suspendedAfter i s

theorem exec_busAndSuspension {i : Instr} {s t : State} (h : exec i s = .next t) : BusAndSuspension i s t := by
  cases i with
  | reset =>
    cases h
    exact ⟨fun _ => rfl, rfl⟩
  | selfCheck =>
    refine ⟨fun hne => absurd rfl hne, of_whenInitialised (P := fun t => t.irqSuspended = s.irqSuspended) h ?_⟩
    split
    · rfl
    · rw [respond_irqSuspended, selfCheckFrom_frame]
  | update u =>
    refine of_whenInitialised h ?_
    rw [applyFlash_frame, timedSndScan_frame, timedSolScan_frame]
    exact ⟨fun _ => rfl, rfl⟩
  | pushPulsed a b c => exact of_whenInitialised h (by rw [solPushPulsed_frame]; exact ⟨fun _ => rfl, rfl⟩)
  | pushPriority a b => exact of_whenInitialised h (by rw [solPushPriority_frame]; exact ⟨fun _ => rfl, rfl⟩)
  | pushSound a => exact of_whenInitialised h (by rw [sndPush_frame]; exact ⟨fun _ => rfl, rfl⟩)
  | flashAll u => exact of_whenInitialised h (by rw [applyFlash_frame]; exact ⟨fun _ => rfl, rfl⟩)
  | pullEvent | setLamp | setDimDivisors | setDigits | setBlankMask =>
    refine of_whenInitialised h ?_
    split <;> exact ⟨fun _ => rfl, rfl⟩
  | pushTimed | setContinuous | pushTimedSound =>
    refine of_whenInitialised h ?_
    split <;> [skip; split] <;> exact ⟨fun _ => rfl, rfl⟩
  | irqSuspend | irqResume | readStatus | readUpdown | readLevel | solDisable | solEnable | readContMask
  | readLampState | readLampDim | readLampFlash | lampsOffAll | setCredits | setBip | setSoundRange =>
    exact of_whenInitialised h ⟨fun _ => rfl, rfl⟩

/-- A command other than SELF_CHECK issues no transaction (R212). -/
theorem exec_bus {i : Instr} {s t : State} (hi : i ≠ .selfCheck) (h : exec i s = .next t) : t.bus = s.bus :=
  (exec_busAndSuspension h).1 hi

theorem exec_irqSuspended {i : Instr} {s t : State} (h : exec i s = .next t) :
    t.irqSuspended = suspendedAfter i s :=
  (exec_busAndSuspension h).2

/-- A suspended source stays so under every command but IRQ_RESUME. -/
theorem suspendedAfter_of_suspended {i : Instr} {s : State} (hi : i ≠ .irqResume) (hs : s.irqSuspended = true) :
    suspendedAfter i s = true := by
  cases i with
  | irqResume => exact absurd rfl hi
  | reset | irqSuspend => rfl
  | _ => exact hs

/-- Settles O21: the whole bus stays, its record of the bytes written with it. -/
theorem commandsLeaveTheBusAlone : Obligations.CommandsLeaveTheBusAlone := by
  intro i s t hi h
  have hbus := exec_bus hi h
  exact ⟨hbus, fun a => by rw [hbus]⟩

/-! ### No firing while suspended (R213) -/

/-- `t` stands after a step of a suspended block from `s` that runs no firing. -/
def HoldsFirings (s t : State) : Prop :=
  t.irqSuspended = true ∧ t.tickCount = s.tickCount ∧ t.phase = s.phase ∧
    (s.firePending = true → t.firePending = true)

theorem exec_holdsFirings {i : Instr} {s t : State} (hresume : i ≠ .irqResume) (hreset : i ≠ .reset)
    (hs : s.irqSuspended = true) (h : exec i s = .next t) : HoldsFirings s t := by
  have htick : t.tickCount = s.tickCount := by rw [exec_frame hreset h]
  have hphase : t.phase = s.phase := by rw [exec_frame hreset h]
  have hpending : t.firePending = s.firePending := by rw [exec_frame hreset h]
  have hsusp : t.irqSuspended = true := (exec_irqSuspended h).trans (suspendedAfter_of_suspended hresume hs)
  exact ⟨hsusp, htick, hphase, hpending.trans⟩

theorem runFrame_holdsFirings {f : Frame} {s t : State} (hresume : decode f ≠ .ok .irqResume)
    (hreset : decode f ≠ .ok .reset) (hs : s.irqSuspended = true) (h : runFrame f s = .next t) :
    HoldsFirings s t := by
  obtain ⟨i, hdec, hexec⟩ | ⟨e, -, -, rfl⟩ := runFrame_cases h
  · exact exec_holdsFirings (fun hi => hresume (hi ▸ hdec)) (fun hi => hreset (hi ▸ hdec)) hs hexec
  · exact ⟨hs, rfl, rfl, id⟩

/-- A firing event is held as the pending firing (R650). -/
theorem timerEvent_suspended {s : State} (hinit : s.init = true) (hs : s.irqSuspended = true) :
    timerEvent s = { s with firePending := true } := by
  simp [timerEvent, hinit, hs]

/-- Settles O22: a frame that neither resets nor resumes keeps the suspension, a firing event is held, and the pending
step is not enabled. -/
theorem suspensionHoldsFirings : Obligations.SuspensionHoldsFirings := by
  intro s t hstep hinit hs hframes
  suffices h : HoldsFirings s t ∧ ∀ rest, s.inputs = .timer :: rest → t.firePending = true by
    obtain ⟨⟨hsusp, htick, hphase, hpending⟩, htimer⟩ := h
    exact ⟨hsusp, htick, hphase, hpending, htimer⟩
  obtain ⟨-, ⟨hin, rfl⟩ | ⟨f, rest, hin, hrun⟩ | ⟨rest, -, rfl⟩ | ⟨rest, hin, rfl⟩⟩ := step_cases hstep
  · exact ⟨⟨hs, rfl, rfl, id⟩, by simp [hin]⟩
  · obtain ⟨hresume, hreset⟩ := hframes f rest hin
    exact ⟨runFrame_holdsFirings (s := { s with inputs := rest }) hresume hreset hs hrun, by simp [hin]⟩
  · rw [timerEvent_suspended (s := { s with inputs := rest }) hinit hs]
    exact ⟨⟨hs, rfl, rfl, fun _ => rfl⟩, fun _ _ => rfl⟩
  · rw [pendingTurn_of_not_enabled (s := { s with inputs := rest }) (.inr (.inl hs))]
    exact ⟨⟨hs, rfl, rfl, id⟩, by simp [hin]⟩

end Sys2Proof.Proofs
end

section
/-! PROOFS. The bus along a step: the trace grows, the bytes held are the last ones written, and each read uses up one
draw (R204, R205, R903). -/

namespace Sys2Proof.Proofs

open Sys2Proof.Machine Sys2Proof.Laws

/-! ### Lists of transactions put together -/

/-- The later transactions have the last word at a location. -/
theorem lastWrite_append (a : Nat) (l m : List Transaction) :
    lastWrite a (l ++ m) = (lastWrite a m).or (lastWrite a l) := by
  induction l with
  | nil => simp [lastWrite]
  | cons x rest ih =>
    cases x with
    | read b v => simpa [lastWrite] using ih
    | write b v =>
      simp only [List.cons_append, lastWrite, ih]
      cases lastWrite a m <;> simp

theorem readCount_append (l m : List Transaction) : readCount (l ++ m) = readCount l + readCount m := by
  induction l with
  | nil => simp [readCount]
  | cons x rest ih =>
    cases x with
    | read b v => rw [List.cons_append, readCount, readCount, ih, Nat.add_right_comm]
    | write b v => rw [List.cons_append, readCount, readCount, ih]

/-! ### Buses one after another -/

/-- The bus `c` is `b` after some transactions: they are what the trace gained, each location holds the last byte they
write there or what it held, and as many draws are used up as they read. -/
def BusFollows (b c : Bus) : Prop :=
  ∃ new : List Transaction, c.trace = b.trace ++ new ∧
    (∀ a, Memory.read c.latched a = (lastWrite a new).or (Memory.read b.latched a)) ∧
    ∀ k, drawAt c k = drawAt b (readCount new + k)

theorem BusFollows.refl (b : Bus) : BusFollows b b :=
  ⟨[], by simp, fun a => by simp [lastWrite], fun k => by simp [readCount]⟩

theorem BusFollows.trans {b c d : Bus} (h : BusFollows b c) (h' : BusFollows c d) : BusFollows b d := by
  obtain ⟨new, htrace, hheld, hdraws⟩ := h
  obtain ⟨new', htrace', hheld', hdraws'⟩ := h'
  refine ⟨new ++ new', by rw [htrace', htrace, List.append_assoc], fun a => ?_, fun k => ?_⟩
  · rw [hheld', hheld, lastWrite_append, Option.or_assoc]
  · rw [hdraws', hdraws, readCount_append, Nat.add_assoc]

/-- A write is the one transaction, and the location holds its byte. -/
theorem BusFollows.of_write (b : Bus) (a : Nat) (v : Byte) : BusFollows b (b.write a v) := by
  refine ⟨[.write a v], write_trace b a v, fun a' => ?_, fun k => ?_⟩
  · rw [write_latched, read_write]
    by_cases h : a' = a
    · simp [lastWrite, h]
    · simp [lastWrite, h, Ne.symm h]
  · rw [drawAt_write, readCount, readCount, Nat.zero_add]

/-- A read is the one transaction, and the next draw is used up. -/
theorem BusFollows.of_read (b : Bus) (a : Nat) : BusFollows b (b.read a) :=
  ⟨[.read a b.draw], read_trace b a, fun _ => rfl, fun k => by
    rw [drawAt_read, readCount, readCount, Nat.zero_add, Nat.add_comm]⟩

theorem BusFollows.write {b c : Bus} (h : BusFollows b c) (a : Nat) (v : Byte) : BusFollows b (c.write a v) :=
  h.trans (.of_write c a v)

theorem BusFollows.read {b c : Bus} (h : BusFollows b c) (a : Nat) : BusFollows b (c.read a) :=
  h.trans (.of_read c a)

/-- A loop whose body only issues transactions only issues transactions. -/
theorem forUpTo_busFollows {n : Nat} {body : Nat → State → State} (s : State)
    (hb : ∀ k s, BusFollows s.bus (body k s).bus) : BusFollows s.bus (forUpTo n body s).bus :=
  forUpTo_keeps (P := fun u => BusFollows s.bus u.bus) (.refl _) fun k _ u h => h.trans (hb k u)

/-! ### The parts of a firing, and SELF_CHECK -/

theorem displayStrobe_busFollows (s : State) : BusFollows s.bus (displayStrobe s).bus := by
  unfold displayStrobe
  split
  · exact .refl _
  · exact (BusFollows.of_write _ _ _).write _ _

theorem scanPass_busFollows (s : State) : BusFollows s.bus (scanPass s).bus := by
  have hlamp : BusFollows s.bus (lampStrobe s).bus := by
    rw [lampStrobe_bus]
    exact (BusFollows.of_write _ _ _).write _ _
  have hselfTest : BusFollows s.bus (selfTestRead (lampStrobe s)).bus := by
    rw [selfTestRead_bus]
    exact hlamp.read _
  have hswitches (u : State) : BusFollows u.bus (switchScan u).bus := by
    rw [switchScan_bus]
    exact forUpTo_busFollows u fun g u => (BusFollows.of_write _ _ _).read _
  have hbus : (scanPass s).bus = (switchScan (selfTestRead (lampStrobe s))).bus := by unfold scanPass; simp only
  rw [hbus]
  exact hselfTest.trans (hswitches _)

theorem actuatePass_busFollows (s : State) : BusFollows s.bus (actuatePass s).bus := by
  have hsolenoids : BusFollows s.bus (solenoidActuate s).bus :=
    forUpTo_busFollows { s with solq := s.solq.popped } fun i u => .of_write _ _ _
  exact hsolenoids.write _ _

theorem firing_busFollows (s : State) : BusFollows s.bus (firing s).bus := by
  have hwork : BusFollows s.bus (firingWork s).bus := by
    cases hphase : s.phase with
    | A => rw [firingWork_A hphase]; exact (displayStrobe_busFollows s).trans (scanPass_busFollows _)
    | B => rw [firingWork_B hphase]; exact (displayStrobe_busFollows s).trans (actuatePass_busFollows _)
  rw [firing_eq, upDownDebounce_bus]
  exact hwork.read _

theorem selfCheckFrom_busFollows (es : List SelfCheckEntry) : ∀ (k : Nat) (m : Byte) (s : State),
    BusFollows s.bus (selfCheckFrom es k (m, s)).2.bus := by
  induction es with
  | nil => intro k m s; exact .refl _
  | cons e rest ih =>
    intro k m s
    have hpair : BusFollows s.bus (selfCheckPair e s).bus := (BusFollows.of_write _ _ _).read _
    exact hpair.trans (ih _ _ _)

/-! ### Every step -/

/-- SELF_CHECK issues its pairs, and no other command issues a transaction. -/
theorem exec_busFollows {i : Instr} {s t : State} (h : exec i s = .next t) : BusFollows s.bus t.bus := by
  by_cases hi : i = .selfCheck
  · subst hi
    refine of_whenInitialised (P := fun t => BusFollows s.bus t.bus) h ?_
    split
    · exact .refl _
    · exact selfCheckFrom_busFollows _ _ _ _
  · rw [exec_bus hi h]
    exact .refl _

theorem runFrame_busFollows {f : Frame} {s t : State} (h : runFrame f s = .next t) : BusFollows s.bus t.bus := by
  obtain ⟨i, -, hexec⟩ | ⟨e, -, -, rfl⟩ := runFrame_cases h
  · exact exec_busFollows hexec
  · exact .refl _

theorem timerEvent_busFollows (s : State) : BusFollows s.bus (timerEvent s).bus := by
  unfold timerEvent
  split
  · exact .refl _
  · split
    · exact .refl _
    · exact firing_busFollows s

theorem pendingTurn_busFollows (s : State) : BusFollows s.bus (pendingTurn s).bus := by
  unfold pendingTurn
  split
  · exact firing_busFollows { s with firePending := false }
  · exact .refl _

theorem step_busFollows {s t : State} (h : step s = .next t) : BusFollows s.bus t.bus := by
  obtain ⟨-, ⟨-, rfl⟩ | ⟨f, rest, -, hrun⟩ | ⟨rest, -, rfl⟩ | ⟨rest, -, rfl⟩⟩ := step_cases h
  · exact .refl _
  · exact runFrame_busFollows (s := { s with inputs := rest }) hrun
  · exact timerEvent_busFollows { s with inputs := rest }
  · exact pendingTurn_busFollows { s with inputs := rest }

/-- Settles O12: a step only issues transactions, and what a location holds is the last write to it or what it held. -/
theorem busMemoryFollowsTheTrace : Obligations.BusMemoryFollowsTheTrace := by
  intro s t hstep
  obtain ⟨new, htrace, hheld, hdraws⟩ := step_busFollows hstep
  exact ⟨new, htrace, fun a v hw => by rw [hheld, hw, Option.some_or],
    fun a hw => by rw [hheld, hw, Option.none_or], hdraws⟩

end Sys2Proof.Proofs
end

section
/-! PROOFS. The frames of the commands: encoding and decoding are inverse (R301, R302, R305), the order of the decoder's
checks (R303), the illegal opcodes (R306), and what a frame that does not decode leaves behind (R801, R803). -/

namespace Sys2Proof.Proofs

open Sys2Proof.Machine Sys2Proof.Laws

/-! ### Formats (R301, R302) -/

/-- The operands that a frame of a format carries; the others are 0 in what is read from it. -/
def carriedOperands : Format → Operands → Operands
  | .f0, _ => {}
  | .f1, o => { a := o.a }
  | .f2, o => { a := o.a, b := o.b }
  | .f3, o => { a := o.a, b := o.b, c := o.c }
  | .f4, o => { t := o.t }
  | .f5, o => { a := o.a, b := o.b, c := o.c, t := o.t }
  | .f6, o => { a := o.a, b := o.b, c := o.c, m := o.m }
  | .f7, o => { a := o.a, b := o.b, c := o.c, t := o.t }
  | .f8, o => { a := o.a, t := o.t }

/-- A format reads back every operand it wrote. -/
theorem parse_emit (F : Format) (o : Operands) : F.parse (F.emit o) = some (carriedOperands F o) := by
  cases F with
  | f0 | f1 | f2 | f3 => rfl
  | f4 | f5 | f7 | f8 => simp [Format.emit, Format.parse, bytes32, carriedOperands, le32_bytes]
  | f6 => simp [Format.emit, Format.parse, bytes16, carriedOperands, le16_bytes]

/-- A format is read from every frame of its length. -/
theorem parse_of_length {F : Format} {rest : List Byte} (h : rest.length + 1 = F.length) :
    ∃ o, F.parse rest = some o :=
  Option.ne_none_iff_exists'.1 fun hnone => (parse_none F rest).1 hnone h

/-- The format of a command's row carries all of the command's operands. -/
theorem carriedOperands_operands (i : Instr) : carriedOperands i.mnemonic.format i.operands = i.operands := by
  cases i <;> rfl

/-- A command is the one its row builds from its operands. -/
theorem build_operands (i : Instr) : i.mnemonic.build i.operands = i := by
  cases i <;> rfl

/-! ### The opcode map (R305, R306) -/

theorem ofOpcode_eq_none_iff (op : Byte) : Mnemonic.ofOpcode op = none ↔ ∀ k : Mnemonic, k.opcode ≠ op := by
  constructor
  · rintro hnone k rfl
    simp at hnone
  · intro hne
    cases hk : Mnemonic.ofOpcode op with
    | none => rfl
    | some k => exact absurd (opcode_of_ofOpcode hk) (hne k)

/-- The opcodes of the map in its order are six runs of numbers: control, switches, solenoids, lamps, displays and
sound. -/
theorem all_opcodes : Mnemonic.all.map (fun k => k.opcode.toNat) =
    List.range' 0x00 7 ++ List.range' 0x10 2 ++ List.range' 0x20 7 ++ List.range' 0x30 7 ++ List.range' 0x40 4 ++
      List.range' 0x50 3 := by
  decide

/-- The opcodes of no row fill the gaps between the runs. -/
theorem ofOpcode_eq_none_iff_gaps (op : Byte) : Mnemonic.ofOpcode op = none ↔
    (0x07 ≤ op.toNat ∧ op.toNat ≤ 0x0F) ∨ (0x12 ≤ op.toNat ∧ op.toNat ≤ 0x1F) ∨ (0x27 ≤ op.toNat ∧ op.toNat ≤ 0x2F) ∨
    (0x37 ≤ op.toNat ∧ op.toNat ≤ 0x3F) ∨ (0x44 ≤ op.toNat ∧ op.toNat ≤ 0x4F) ∨ 0x53 ≤ op.toNat := by
  have hmem : Mnemonic.ofOpcode op = none ↔ op.toNat ∉ Mnemonic.all.map fun k => k.opcode.toNat := by
    simp [Mnemonic.ofOpcode, BitVec.toNat_inj]
  rw [hmem, all_opcodes]
  simp only [List.mem_append, List.mem_range'_1]
  omega

/-! ### The decoder (R303) -/

theorem decode_eq_illegalOpcode_iff (f : Frame) :
    decode f = .error .illegalOpcode ↔ Mnemonic.ofOpcode f.op = none := by
  unfold decode
  split
  · simp [*]
  · split <;> simp [*]

theorem decode_eq_ok_iff (f : Frame) (i : Instr) :
    decode f = .ok i ↔ ∃ k o, Mnemonic.ofOpcode f.op = some k ∧ k.format.parse f.rest = some o ∧ k.build o = i := by
  unfold decode
  split
  · simp [*]
  · split <;> simp [*]

/-- A frame of a row's opcode whose length is not the row's. -/
theorem decode_of_length_ne {k : Mnemonic} {f : Frame} (hop : k.opcode = f.op) (h : f.length ≠ k.format.length) :
    decode f = .error .badLength := by
  have hnone : k.format.parse f.rest = none := (parse_none _ _).2 h
  simp [decode, ← hop, hnone]

/-- A frame of a row's opcode and length. -/
theorem decode_of_length_eq {k : Mnemonic} {f : Frame} (hop : k.opcode = f.op) (h : f.length = k.format.length) :
    ∃ i, decode f = .ok i ∧ i.mnemonic = k := by
  obtain ⟨o, ho⟩ := parse_of_length (F := k.format) h
  exact ⟨k.build o, (decode_eq_ok_iff _ _).2 ⟨k, o, by rw [← hop, ofOpcode_opcode], ho, rfl⟩, build_mnemonic k o⟩

/-- The frame of a row with any operands decodes to the row's command with those of them that its format carries. -/
theorem decode_emit (k : Mnemonic) (o : Operands) :
    decode { op := k.opcode, rest := k.format.emit o } = .ok (k.build (carriedOperands k.format o)) :=
  (decode_eq_ok_iff _ _).2 ⟨k, _, ofOpcode_opcode k, parse_emit k.format o, rfl⟩

/-- Settles O1: the command's format carries its operands, from which its row builds the command again. -/
theorem decodeOfEncode : Obligations.DecodeOfEncode := by
  intro i
  rw [encode, decode_emit, carriedOperands_operands, build_operands]

/-- Settles O2: the row found has the frame's opcode, and its format writes the bytes it read. -/
theorem encodeOfDecode : Obligations.EncodeOfDecode := by
  intro f i h
  obtain ⟨k, o, hk, ho, rfl⟩ := (decode_eq_ok_iff f i).1 h
  simp [encode, opcode_of_ofOpcode hk, emit_parse ho]

/-- Settles O3: the rows are told apart by their opcodes, the lengths by whether the row's format can be read. -/
theorem decodingOrder : Obligations.DecodingOrder := by
  intro f
  refine ⟨fun hne => ?_, fun k hop => ⟨decode_of_length_ne hop, fun hlen => ?_⟩⟩
  · exact (decode_eq_illegalOpcode_iff f).2 ((ofOpcode_eq_none_iff f.op).2 hne)
  · obtain ⟨i, hdec, hk⟩ := decode_of_length_eq hop hlen
    exact ⟨i, hdec, hk, encodeOfDecode f i hdec⟩

/-- Settles O4: an opcode is illegal where the map has a gap, and a format reads whatever it writes. -/
theorem illegalOpcodes : Obligations.IllegalOpcodes :=
  ⟨fun op rest => (decode_eq_illegalOpcode_iff ⟨op, rest⟩).trans (ofOpcode_eq_none_iff_gaps op),
    fun k o => ⟨_, decode_emit k o, build_mnemonic k _⟩⟩

/-- Settles O5: each frame is the encoding of its command. -/
theorem writtenFramesDecode : Obligations.WrittenFramesDecode :=
  ⟨decodeOfEncode (.update 1000#32), decodeOfEncode (.readLevel 10#8),
    decodeOfEncode (.pushTimed 5#8 1#8 10000#32 1#8), decodeOfEncode (.setLamp 12#8 1#8 0#8 500#16),
    decodeOfEncode (.setDigits 0#8 1234#32 1#8 2#8), decodeOfEncode (.pushTimedSound 30#8 0#32)⟩

/-! ### Frames that do not decode (R801, R803) -/

theorem step_of_decode_error {s : State} {f : Frame} {rest : List Input} {e : CommandError}
    (hlegal : s.cfg.legal = true) (hin : s.inputs = .command f :: rest) (hinit : s.init = true)
    (hdec : decode f = .error e) : step s = .next (commandError e { s with inputs := rest }) := by
  have hrun : runFrame f { s with inputs := rest } = undecodable e { s with inputs := rest } := by
    simp [runFrame, hdec]
  rw [step, hin]
  exact (whenConfigured_legal hlegal _).trans (hrun.trans (whenInitialised_init hinit))

/-- Settles O7: the record of an error is `commandError`, whose code is the error's. -/
theorem decodingErrorIsRecorded : Obligations.DecodingErrorIsRecorded :=
  fun _ _ _ hlegal hin hinit =>
    ⟨step_of_decode_error hlegal hin hinit, step_of_decode_error hlegal hin hinit⟩

/-! ### Response lengths (R304) -/

/-- One response of `n` bytes is all that `t` adds to the responses of `s`. -/
def Answers (n : Nat) (s t : State) : Prop := ∃ r, t.responses = s.responses ++ [r] ∧ r.length = n

/-- A command that gave no response so far and then responds. -/
theorem respond_answers {s u : State} (r : List Byte) (h : u.responses = s.responses) :
    Answers r.length s (respond r u) :=
  ⟨r, by rw [respond_responses, h], rfl⟩

/-- Every command but SELF_CHECK answers as many bytes as its row says. -/
theorem exec_answers {i : Instr} {s t : State} (hi : i ≠ .selfCheck) (h : exec i s = .next t) :
    Answers i.mnemonic.responseLength s t := by
  cases i with
  | selfCheck => exact absurd rfl hi
  | reset =>
    cases h
    exact respond_answers [] rfl
  | update u =>
    refine of_whenInitialised h (respond_answers [] ?_)
    rw [applyFlash_frame, timedSndScan_frame, timedSolScan_frame]
  | pushPulsed a b c => exact of_whenInitialised h (respond_answers [] (by rw [solPushPulsed_frame]))
  | pushPriority a b => exact of_whenInitialised h (respond_answers [] (by rw [solPushPriority_frame]))
  | flashAll u => exact of_whenInitialised h (respond_answers [] (by rw [applyFlash_frame]))
  | pushSound a => exact of_whenInitialised h (respond_answers [_] (by rw [sndPush_frame]))
  | pullEvent =>
    refine of_whenInitialised h ?_
    split <;> exact respond_answers [_] rfl
  | pushTimed | pushTimedSound =>
    refine of_whenInitialised h ?_
    split <;> [skip; split] <;> exact respond_answers [_] rfl
  | setLamp | setDimDivisors | setDigits | setBlankMask =>
    exact of_whenInitialised h (respond_answers [] (by split <;> rfl))
  | setContinuous a b => exact of_whenInitialised h (respond_answers [] (by split <;> [rfl; split <;> rfl]))
  | readContMask => exact of_whenInitialised h (respond_answers (bytes32 s.contMask) rfl)
  | readStatus | readUpdown | readLevel | readLampState | readLampDim | readLampFlash =>
    exact of_whenInitialised h (respond_answers [_] rfl)
  | irqSuspend | irqResume | solDisable | solEnable | lampsOffAll | setCredits | setBip | setSoundRange =>
    exact of_whenInitialised h (respond_answers [] rfl)

/-- SELF_CHECK answers one byte, its mask, while the source is suspended (R701). -/
theorem selfCheck_answers {s t : State} (hs : s.irqSuspended = true) (h : exec .selfCheck s = .next t) :
    Answers 1 s t := by
  refine of_whenInitialised h ?_
  rw [if_neg (by simp [hs])]
  exact respond_answers [_] (by rw [selfCheckFrom_frame])

/-- SELF_CHECK is refused while the source is not suspended, and answers no byte (R701, R803). -/
theorem selfCheck_refused {s t : State} (hs : s.irqSuspended = false) (h : exec .selfCheck s = .next t) :
    t.responses = s.responses ++ [[]] := by
  refine of_whenInitialised (P := fun t => t.responses = s.responses ++ [[]]) h ?_
  rw [if_pos (by simp [hs]), commandError_responses]

/-- Settles O23: SELF_CHECK apart, refused or not, every command responds once with the bytes of its row. -/
theorem responseLengths : Obligations.ResponseLengths := by
  intro i s t h
  by_cases hi : i = .selfCheck
  · subst hi
    cases hs : s.irqSuspended with
    | false => exact ⟨[], selfCheck_refused hs h, by simp⟩
    | true =>
      obtain ⟨r, hr, hlen⟩ := selfCheck_answers hs h
      exact ⟨r, hr, by rw [if_neg (by simp)]; exact hlen⟩
  · obtain ⟨r, hr, hlen⟩ := exec_answers hi h
    exact ⟨r, hr, by rwa [if_neg fun hc => hi hc.1]⟩

end Sys2Proof.Proofs
end

section
/-! PROOFS. The switch commands and the queue of switch numbers (R401, R411, R412). -/

namespace Sys2Proof.Proofs

open Sys2Proof.Machine Sys2Proof.Laws

/-! ### The event queue, one entry at a time -/

/-- A ring that holds an entry gives it up by a pop and keeps the others. -/
theorem pop_of_entries_cons {q : Ring} {cap : Nat} {x : Byte} {xs : List Byte} (h : q.wf cap = true)
    (he : q.entries = x :: xs) : ∃ q' : Ring, q.pop = some (x, q') ∧ q'.wf cap = true ∧ q'.entries = xs := by
  cases hp : q.pop with
  | none =>
    have hnil := (pop_none h).1 hp
    simp [hnil] at he
  | some r =>
    obtain ⟨y, q'⟩ := r
    obtain ⟨hwf, hentries⟩ := pop_some h hp
    obtain ⟨rfl, rfl⟩ := List.cons.inj (hentries.symm.trans he)
    exact ⟨q', rfl, hwf, rfl⟩

/-- PULL_EVENT of an initialised block: what the pop of its queue gives decides answer and effect. -/
theorem exec_pullEvent {s : State} (h : s.init = true) : exec .pullEvent s = .next
    (s.swq.pop.elim (respond [0xFF#8] s) fun r => respond [r.1] { s with swq := r.2 }) := by
  refine (whenInitialised_init h).trans ?_
  cases s.swq.pop <;> rfl

/-- Settles O32: PULL_EVENT answers by the pop of its queue, which fails on the empty queue and else gives the first
entry. -/
theorem pullEventEffect : Obligations.PullEventEffect := by
  refine ⟨wf_iff, fun _ => rfl, decodeOfEncode .pullEvent,
    fun s hinit hwf => ⟨fun hnil => ?empty, fun x xs hcons => ?oldest⟩⟩
  case empty =>
    rw [exec_pullEvent hinit, (pop_none hwf).2 hnil]
    rfl
  case oldest =>
    obtain ⟨q, hpop, hqwf, hq⟩ := pop_of_entries_cons hwf hcons
    refine ⟨q, hqwf, hq, ?_⟩
    rw [exec_pullEvent hinit, hpop]
    rfl

/-- A silent push on a full ring leaves it as it is (R805). -/
theorem pushed_of_full {q : Ring} {cap : Nat} (v : Byte) (h : q.wf cap = true) (hfull : q.count = cap - 1) :
    q.pushed v = q := by
  rw [Ring.pushed, (pushBack_none h).2 hfull, Option.getD_none]

/-- A push that leaves the queue leaves the state. -/
theorem swqPush_eq_self {n : Byte} {s : State} (h : (swqPush n s).swq = s.swq) : swqPush n s = s := by
  rw [swqPush_frame, h]

/-- The self-test number is not queued behind itself as the oldest entry (R401). -/
theorem swqPush_of_oldest {n : Byte} {s : State} (h : s.swq.wf s.cfg.swqCap = true) (hn : n = s.cfg.swSelfTest)
    (hhead : s.swq.entries.head? = some n) : swqPush n s = s := by
  refine swqPush_eq_self ?_
  rw [entries_head? h, Option.ite_none_left_eq_some, Option.some.injEq] at hhead
  obtain ⟨hne, hfirst⟩ := hhead
  rw [swqPush_swq, if_pos]
  simp only [Bool.and_eq_true, beq_iff_eq, Bool.not_eq_true']
  exact ⟨⟨hn, eq_false_of_ne_true hne⟩, hfirst⟩

/-- A full queue drops the number, whichever it is (R401). -/
theorem swqPush_of_full (n : Byte) {s : State} (h : s.swq.wf s.cfg.swqCap = true)
    (hfull : s.swq.count = s.cfg.swqCap - 1) : swqPush n s = s := by
  refine swqPush_eq_self ?_
  rw [swqPush_swq, pushed_of_full n h hfull, ite_self]

/-- Settles O34: the two pushes that change nothing, and the rule of the queue for the others. -/
theorem switchPushEffect : Obligations.SwitchPushEffect := by
  intro s n hwf
  obtain ⟨hwf', hentries⟩ := swqPush_entries n hwf
  refine ⟨swqPush_frame n s, hwf', fun ⟨hn, hhead⟩ => swqPush_of_oldest hwf hn hhead, fun hfull => ?full,
    fun hnew hroom => ?append⟩
  case full => exact swqPush_of_full n hwf (by rw [← entries_length, hfull])
  case append =>
    rw [hentries, enqueue, if_neg hnew, List.take_of_length_le]
    rw [List.length_append, List.length_singleton]
    omega

/-! ### Levels (R412) -/

theorem switchLevel_of_matrix {s : State} {n : Nat} (h : n < 8 * s.cfg.numSwGroups) :
    switchLevel s n = (s.swNow.getD (n / 8) 0#8).getLsbD (n % 8) :=
  if_pos h

theorem switchLevel_of_not_matrix {s : State} {n : Nat} (h : 8 * s.cfg.numSwGroups ≤ n) :
    switchLevel s n = if n = s.cfg.swSelfTest.toNat then s.selfTestLevel else false :=
  if_neg (Nat.not_lt.2 h)

/-- Settles O33: the answer is the level of the number, in the three cases of R412. -/
theorem readLevelEffect : Obligations.ReadLevelEffect := by
  refine ⟨fun a => decodeOfEncode (.readLevel a), fun s a hinit => ⟨switchLevel s a.toNat, whenInitialised_init hinit,
    switchLevel_of_matrix, fun hout hself => ?selfTest, fun hout hne => ?other⟩⟩
  case selfTest => rw [switchLevel_of_not_matrix hout, if_pos (by rw [hself])]
  case other => rw [switchLevel_of_not_matrix hout, if_neg (mt BitVec.eq_of_toNat_eq hne)]

end Sys2Proof.Proofs
end

section
/-! PROOFS. What a firing of phase A leaves in the solenoid queue: the pulses of the priority path (R405, R454, R457). -/

namespace Sys2Proof.Proofs

open Sys2Proof.Machine Sys2Proof.Laws

/-- What one entry of P_PRIORITY_TABLE makes of the queued pulses `es`, by the samples and the gate of `s`: its own pulses
in front, as many as there is room for, when its switch exists and is at its first closed sample and its solenoid exists
and is not stopped (R405, R454, R457). -/
def priorityFront (s : State) (es : List Byte) (e : PriorityEntry) : List Byte :=
  if e.switchNumber.toNat < s.cfg.nsw ∧ bankBit s.swNow e.switchNumber.toNat = true ∧
      bankBit s.swM1 e.switchNumber.toNat = false ∧
      e.solenoidNumber.toNat < s.cfg.numSolenoids ∧ s.solDisabled = false
  then List.replicate (min e.holdTicks.toNat (s.cfg.solqCap - 1 - es.length)) e.solenoidNumber ++ es
  else es

/-- A bit of R405's starting byte is the two samples of its switch. -/
theorem getLsbD_swStarting (s : State) (n : Nat) :
    (swStarting s (n / 8)).getLsbD (n % 8) = (bankBit s.swNow n && !bankBit s.swM1 n) := by
  simp [swStarting, bankBit, Nat.mod_lt]

/-- The solenoid queue after a priority push (R454). -/
theorem solPushPriority_entries {s : State} (id ticks : Byte) (h : s.solq.wf s.cfg.solqCap = true) :
    (solPushPriority id ticks s).solq.wf s.cfg.solqCap = true ∧
    (solPushPriority id ticks s).solq.entries =
      if id.toNat < s.cfg.numSolenoids ∧ s.solDisabled = false
      then List.replicate (min ticks.toNat (s.cfg.solqCap - 1 - s.solq.entries.length)) id ++ s.solq.entries
      else s.solq.entries := by
  unfold solPushPriority solenoidExists
  by_cases hid : id.toNat < s.cfg.numSolenoids
  · cases hgate : s.solDisabled with
    | true => simp [h, hid]
    | false => simpa [hid] using pushFrontN_spec id ticks.toNat h
  · simp [h, hid]

/-- An entry of the table pushes when its switch exists and is at its first closed sample (R405). -/
theorem priorityStep_eq (e : PriorityEntry) (s : State) : priorityStep e s =
    if e.switchNumber.toNat < s.cfg.nsw ∧ bankBit s.swNow e.switchNumber.toNat = true ∧
        bankBit s.swM1 e.switchNumber.toNat = false
    then solPushPriority e.solenoidNumber e.holdTicks s else s := by
  simp [priorityStep, getLsbD_swStarting]

/-- The solenoid queue after one entry of the table. -/
theorem priorityStep_entries {s : State} (e : PriorityEntry) (h : s.solq.wf s.cfg.solqCap = true) :
    (priorityStep e s).solq.wf s.cfg.solqCap = true ∧
    (priorityStep e s).solq.entries = priorityFront s s.solq.entries e := by
  rw [priorityStep_eq, priorityFront]
  split
  · rename_i hfirst
    simpa only [hfirst, true_and] using solPushPriority_entries e.solenoidNumber e.holdTicks h
  · rename_i hother
    rw [if_neg fun ⟨hlt, hnow, hm1, _⟩ => hother ⟨hlt, hnow, hm1⟩]
    exact ⟨h, rfl⟩

/-- The rule of an entry reads nothing that the queue holds. -/
theorem priorityFront_setSolq (s : State) (q : Ring) : priorityFront { s with solq := q } = priorityFront s := rfl

/-- The solenoid queue after some entries of the table, in list order. -/
theorem foldl_priorityStep_entries (table : List PriorityEntry) {s : State} (h : s.solq.wf s.cfg.solqCap = true) :
    (table.foldl (fun u e => priorityStep e u) s).solq.wf s.cfg.solqCap = true ∧
    (table.foldl (fun u e => priorityStep e u) s).solq.entries = table.foldl (priorityFront s) s.solq.entries := by
  induction table generalizing s with
  | nil => exact ⟨h, rfl⟩
  | cons e rest ih =>
    obtain ⟨hwf, hentries⟩ := priorityStep_entries e h
    rw [List.foldl_cons, List.foldl_cons, ← hentries]
    rw [priorityStep_frame] at hwf ⊢
    exact ih hwf

/-- The priority path of a switch scan starts with the parameters and the solenoid queue of the scan's start (R403). -/
theorem switchScan_priority (s : State) :
    ∃ u : State, switchScan s = priorityScan u ∧ u.cfg = s.cfg ∧ u.solq = s.solq := by
  refine ⟨_, rfl, ?_, ?_⟩
  · exact (forUpTo_field (·.cfg) _ fun g t => by rw [swEnqueueGroup_frame]).trans
      (forUpTo_field (·.cfg) s fun g t => by rw [swSampleGroup_frame])
  · exact (forUpTo_field (·.solq) _ fun g t => by rw [swEnqueueGroup_frame]).trans
      (forUpTo_field (·.solq) s fun g t => by rw [swSampleGroup_frame])

/-- The solenoid queue after a switch scan: the table is run by the samples that the scan itself took. -/
theorem switchScan_solq {s : State} (h : s.solq.wf s.cfg.solqCap = true) :
    (switchScan s).solq.wf s.cfg.solqCap = true ∧
    (switchScan s).solq.entries = s.cfg.priorityTable.foldl (priorityFront (switchScan s)) s.solq.entries := by
  obtain ⟨u, hscan, hcfg, hsolq⟩ := switchScan_priority s
  have hrule : priorityFront (priorityScan u) = priorityFront u := by
    rw [priorityScan_frame, priorityFront_setSolq]
  rw [hscan, hrule, ← hcfg, ← hsolq]
  rw [← hcfg, ← hsolq] at h
  exact foldl_priorityStep_entries _ h

/-- Display, lamps and self-test line leave the solenoid queue. -/
theorem scanStart_solq (s : State) : (scanStart s).solq = s.solq := by
  rw [scanStart, selfTestRead_frame, lampStrobe_frame, displayStrobe_frame]

/-- The solenoid queue after a firing of phase A is the one its switch scan leaves. -/
theorem firing_solq {s : State} (h : s.phase = .A) : (firing s).solq = (switchScan (scanStart s)).solq := by
  rw [firing_eq, firingWork_scan h, upDownDebounce_frame]

/-- The rule of an entry after a firing of phase A is that of the firing's own scan. -/
theorem priorityFront_firing {s : State} (h : s.phase = .A) :
    priorityFront (firing s) = priorityFront (switchScan (scanStart s)) := by
  rw [firing_eq, firingWork_scan h, upDownDebounce_frame]
  rfl

/-- Settles O37: the table is run over the queue as the firing found it, by the samples the firing took. -/
theorem priorityPathFronts : Obligations.PriorityPathFronts := by
  intro s hphase hwf
  have hcfg : (scanStart s).cfg = s.cfg := (scanStart_spec s).1
  have hsolq := scanStart_solq s
  obtain ⟨hend_wf, hend⟩ := switchScan_solq (s := scanStart s) (by rwa [hcfg, hsolq])
  rw [hcfg] at hend_wf
  rw [hcfg, hsolq, ← priorityFront_firing hphase] at hend
  have hfcfg : (firing s).cfg = s.cfg := by rw [firing_frame]
  have hfgate : (firing s).solDisabled = s.solDisabled := by rw [firing_frame]
  rw [firing_solq hphase, hend]
  refine ⟨hend_wf, ?_⟩
  unfold priorityFront
  rw [hfcfg, hfgate]

end Sys2Proof.Proofs
end

section
/-! PROOFS. What comes to the solenoid and sound queues, and what the timed scans and the flashing of an UPDATE do (R453,
R456, R505, R600, R603). -/

namespace Sys2Proof.Proofs

open Sys2Proof.Machine Sys2Proof.Laws

/-! ### Entries that come to a ring -/

/-- The entries `xs` come to the ring `q`, one behind the other and as far as it holds them, and leave `q'`. -/
def Appended (cap : Nat) (xs : List Byte) (q q' : Ring) : Prop :=
  q.wf cap = true → q'.wf cap = true ∧ q'.entries = (q.entries ++ xs).take (cap - 1)

/-- A ring never holds more than CAP − 1 entries. -/
theorem entries_take {q : Ring} {cap : Nat} (h : q.wf cap = true) : q.entries.take (cap - 1) = q.entries := by
  have := count_lt h
  exact List.take_of_length_le (by rw [entries_length]; omega)

theorem Appended.refl (cap : Nat) (q : Ring) : Appended cap [] q q := fun h =>
  ⟨h, by rw [List.append_nil, entries_take h]⟩

theorem Appended.trans {cap : Nat} {xs ys : List Byte} {q q' q'' : Ring} (h : Appended cap xs q q')
    (h' : Appended cap ys q' q'') : Appended cap (xs ++ ys) q q'' := by
  intro hwf
  obtain ⟨hwf', he⟩ := h hwf
  obtain ⟨hwf'', he'⟩ := h' hwf'
  exact ⟨hwf'', by rw [he', he, take_append_take, List.append_assoc]⟩

/-- What was queued stays in front of what still fits. -/
theorem Appended.keeps_front {cap : Nat} {xs : List Byte} {q q' : Ring} (h : Appended cap xs q q')
    (hwf : q.wf cap = true) : ∃ after, q'.entries = q.entries ++ after := by
  obtain ⟨-, he⟩ := h hwf
  exact ⟨_, by rw [he, List.take_append, entries_take hwf]⟩

/-- The pulses that `solPushPulsed` lets through (R453): those of a solenoid that exists, unless the gate stops them. -/
def gatedPulses (s : State) (id ticks : Byte) (ovr : Bool) : List Byte :=
  if id.toNat < s.cfg.numSolenoids ∧ (s.solDisabled = false ∨ ovr = true) then List.replicate ticks.toNat id else []

/-- A push that R453 stops changes nothing. -/
theorem solPushPulsed_stopped {s : State} {id : Byte} (ticks : Byte) {ovr : Bool}
    (h : s.cfg.numSolenoids ≤ id.toNat ∨ (s.solDisabled = true ∧ ovr = false)) : solPushPulsed id ticks ovr s = s := by
  unfold solPushPulsed solenoidExists
  rcases h with hid | ⟨hgate, hovr⟩
  · rw [if_pos (by simpa using hid)]
  · rw [hgate, hovr]
    exact ite_self s

/-- A push that R453 lets through writes the queue alone. -/
theorem solPushPulsed_passed {s : State} {id : Byte} (ticks : Byte) {ovr : Bool} (hid : id.toNat < s.cfg.numSolenoids)
    (hgate : s.solDisabled = false ∨ ovr = true) :
    solPushPulsed id ticks ovr s = { s with solq := s.solq.pushBackN id ticks.toNat } := by
  rw [solPushPulsed, if_neg (by simpa [solenoidExists] using hid), if_neg]
  rcases hgate with h | h <;> simp [h]

theorem solPushPulsed_appended (id ticks : Byte) (ovr : Bool) (s : State) :
    Appended s.cfg.solqCap (gatedPulses s id ticks ovr) s.solq (solPushPulsed id ticks ovr s).solq := by
  by_cases hgo : id.toNat < s.cfg.numSolenoids ∧ (s.solDisabled = false ∨ ovr = true)
  · obtain ⟨hid, hgate⟩ := hgo
    rw [gatedPulses, if_pos ⟨hid, hgate⟩, solPushPulsed_passed ticks hid hgate]
    exact fun h => ⟨(pushBackN_spec id ticks.toNat h).1, pushBackN_take id ticks.toNat h⟩
  · have hstop : s.cfg.numSolenoids ≤ id.toNat ∨ (s.solDisabled = true ∧ ovr = false) := by
      simpa only [not_and_or, not_or, Nat.not_lt, Bool.not_eq_false, Bool.not_eq_true] using hgo
    rw [gatedPulses, if_neg hgo, solPushPulsed_stopped ticks hstop]
    exact .refl _ _

/-- The value that `sndPush` lets through (R600): one in range. -/
def legalSound (s : State) (v : Byte) : List Byte := if sndLegal s v = true then [v] else []

theorem sndPush_appended (v : Byte) (s : State) :
    Appended s.cfg.sndqCap (legalSound s v) s.sndq (sndPush v s).sndq := by
  unfold legalSound sndPush
  cases sndLegal s v with
  | true => exact fun h => ⟨(pushed_spec v h).1, pushed_take v h⟩
  | false => exact .refl _ _

/-! ### Slot arrays -/

/-- An array whose first `n` places are mapped: what a scan of `n` rounds leaves. -/
def mapFirst {α : Type} (f : α → α) (n : Nat) (l : List α) : List α := (l.take n).map f ++ l.drop n

@[simp] theorem mapFirst_zero {α : Type} (f : α → α) (l : List α) : mapFirst f 0 l = l := rfl

@[simp] theorem mapFirst_length {α : Type} (f : α → α) (l : List α) : mapFirst f l.length l = l.map f := by
  simp [mapFirst]

theorem getElem?_mapFirst {α : Type} (f : α → α) (n : Nat) (l : List α) (i : Nat) :
    (mapFirst f n l)[i]? = l[i]?.map fun x => if i < n then f x else x := by
  unfold mapFirst
  induction l generalizing n i with
  | nil => simp
  | cons x l ih => cases n <;> cases i <;> simp [-List.map_take, ih]

/-- Mapping the next place too. -/
theorem modify_mapFirst {α : Type} (f : α → α) (n : Nat) (l : List α) :
    (mapFirst f n l).modify n f = mapFirst f (n + 1) l := by
  unfold mapFirst
  induction l generalizing n with
  | nil => simp
  | cons x l ih => cases n <;> simp [-List.map_take, ih]

/-- A scan over an array of slots: round `i` frees slot `i` alone, by a rule of the slot, and brings to the queue what
the slot stands for. So the scan maps the slots it passes and queues what they stand for in slot order. -/
theorem forUpTo_slots {α : Type} {slots : State → List α} {queue : State → Ring} {free : α → α}
    {out : α → List Byte} {cap : Nat} {body : Nat → State → State} {P : State → Prop} {s : State} (hs : P s)
    (hbody : ∀ i u, P u → P (body i u) ∧ slots (body i u) = (slots u).modify i free ∧
      Appended cap ((slots u)[i]?.toList.flatMap out) (queue u) (queue (body i u))) (n : Nat) :
    P (forUpTo n body s) ∧ slots (forUpTo n body s) = mapFirst free n (slots s) ∧
    Appended cap (((slots s).take n).flatMap out) (queue s) (queue (forUpTo n body s)) := by
  induction n with
  | zero => exact ⟨hs, rfl, .refl cap (queue s)⟩
  | succ n ih =>
    obtain ⟨hP, hslots, hqueue⟩ := ih
    obtain ⟨hP', hslots', hqueue'⟩ := hbody n _ hP
    have hnext : (slots (forUpTo n body s))[n]? = (slots s)[n]? := by rw [hslots, getElem?_mapFirst]; simp
    rw [hnext] at hqueue'
    rw [forUpTo_succ]
    refine ⟨hP', by rw [hslots', hslots, modify_mapFirst], ?_⟩
    rw [List.take_add_one, List.flatMap_append]
    exact hqueue.trans hqueue'

/-- A place of a list mapped, read off what stands there. -/
theorem modify_eq_of_getElem? {α : Type} (f : α → α) {l : List α} {i : Nat} {o : Option α} (h : l[i]? = o) :
    l.modify i f = o.elim l fun x => l.set i (f x) := by
  subst h
  rw [List.modify_eq_set_getElem?]
  cases l[i]? <;> rfl

theorem set_of_getElem? {α : Type} {l : List α} {i : Nat} {x : α} (h : l[i]? = some x) : l.set i x = l := by
  obtain ⟨hi, rfl⟩ := List.getElem?_eq_some_iff.1 h
  exact List.set_getElem_self hi

/-- A slot freed if it is due (R456). -/
def freedSol (t : U32) (e : TimedSol) : TimedSol := if e.due t = true then { e with active := false } else e

/-- A slot freed if it is due (R603). -/
def freedSnd (t : U32) (e : TimedSnd) : TimedSnd := if e.due t = true then { e with active := false } else e

/-- The pulses a slot stands for at time `t` under the gate of `s` (R456). -/
def slotPulses (t : U32) (s : State) (e : TimedSol) : List Byte :=
  if e.due t = true then gatedPulses s e.sol e.count e.ovr else []

/-- The sound value a slot stands for at time `t` under the range of `s` (R603). -/
def slotSounds (t : U32) (s : State) (e : TimedSnd) : List Byte :=
  if e.due t = true then legalSound s e.val else []

theorem timedSolSlot_spec (t : U32) (i : Nat) (s : State) :
    (timedSolSlot t i s).tsol = s.tsol.modify i (freedSol t) ∧
    Appended s.cfg.solqCap (s.tsol[i]?.toList.flatMap (slotPulses t s)) s.solq (timedSolSlot t i s).solq := by
  unfold timedSolSlot
  split
  · rename_i hslot
    rw [modify_eq_of_getElem? _ hslot, hslot]
    exact ⟨rfl, .refl _ _⟩
  · rename_i e hslot
    rw [modify_eq_of_getElem? _ hslot, hslot, Option.elim_some, Option.toList_some, List.flatMap_singleton, freedSol,
      slotPulses]
    split
    · refine ⟨by rw [solPushPulsed_frame], ?_⟩
      exact solPushPulsed_appended e.sol e.count e.ovr { s with tsol := s.tsol.set i { e with active := false } }
    · exact ⟨(set_of_getElem? hslot).symm, .refl _ _⟩

theorem timedSndSlot_spec (t : U32) (i : Nat) (s : State) :
    (timedSndSlot t i s).tsnd = s.tsnd.modify i (freedSnd t) ∧
    Appended s.cfg.sndqCap (s.tsnd[i]?.toList.flatMap (slotSounds t s)) s.sndq (timedSndSlot t i s).sndq := by
  unfold timedSndSlot
  split
  · rename_i hslot
    rw [modify_eq_of_getElem? _ hslot, hslot]
    exact ⟨rfl, .refl _ _⟩
  · rename_i e hslot
    rw [modify_eq_of_getElem? _ hslot, hslot, Option.elim_some, Option.toList_some, List.flatMap_singleton, freedSnd,
      slotSounds]
    split
    · refine ⟨by rw [sndPush_frame], ?_⟩
      exact sndPush_appended e.val { s with tsnd := s.tsnd.set i { e with active := false } }
    · exact ⟨(set_of_getElem? hslot).symm, .refl _ _⟩

/-! ### The timed scans -/

/-- The solenoid scan (R456), over an array of any length: the slots it passes are freed where due, and their pulses
come to the queue in slot order. -/
theorem timedSolScan_slots (t : U32) (s : State) :
    (timedSolScan t s).tsol = mapFirst (freedSol t) s.cfg.tsolCap s.tsol ∧
    Appended s.cfg.solqCap ((s.tsol.take s.cfg.tsolCap).flatMap (slotPulses t s)) s.solq (timedSolScan t s).solq := by
  refine (forUpTo_slots (P := fun u => u = { s with tsol := u.tsol, solq := u.solq }) (slots := State.tsol)
    (queue := State.solq) rfl (fun i u hu => ?_) s.cfg.tsolCap).2
  obtain ⟨hslots, hqueue⟩ := timedSolSlot_spec t i u
  have hcap : u.cfg.solqCap = s.cfg.solqCap := by rw [hu]
  have hpulses : slotPulses t u = slotPulses t s := by rw [hu]; rfl
  rw [hcap, hpulses] at hqueue
  exact ⟨by rw [timedSolSlot_frame, hu], hslots, hqueue⟩

/-- The sound scan (R603), over an array of any length. -/
theorem timedSndScan_slots (t : U32) (s : State) :
    (timedSndScan t s).tsnd = mapFirst (freedSnd t) s.cfg.tsndCap s.tsnd ∧
    Appended s.cfg.sndqCap ((s.tsnd.take s.cfg.tsndCap).flatMap (slotSounds t s)) s.sndq (timedSndScan t s).sndq := by
  refine (forUpTo_slots (P := fun u => u = { s with tsnd := u.tsnd, sndq := u.sndq }) (slots := State.tsnd)
    (queue := State.sndq) rfl (fun i u hu => ?_) s.cfg.tsndCap).2
  obtain ⟨hslots, hqueue⟩ := timedSndSlot_spec t i u
  have hcap : u.cfg.sndqCap = s.cfg.sndqCap := by rw [hu]
  have hsounds : slotSounds t u = slotSounds t s := by rw [hu]; rfl
  rw [hcap, hsounds] at hqueue
  exact ⟨by rw [timedSndSlot_frame, hu], hslots, hqueue⟩

/-- A loop none of whose rounds changes the state it starts in. -/
theorem forUpTo_of_fixed {n : Nat} {body : Nat → State → State} {s : State} (h : ∀ k, body k s = s) :
    forUpTo n body s = s :=
  forUpTo_keeps (P := (· = s)) rfl fun k _ u hu => by rw [hu, h]

/-- A scan of slots none of which is due changes nothing. -/
theorem timedSolScan_of_none_due {t : U32} {s : State} (h : ∀ e ∈ s.tsol, e.due t = false) : timedSolScan t s = s := by
  refine forUpTo_of_fixed fun i => ?_
  unfold timedSolSlot
  split
  · rfl
  · rename_i e hslot
    rw [h e (List.mem_of_getElem? hslot)]
    rfl

theorem timedSndScan_of_none_due {t : U32} {s : State} (h : ∀ e ∈ s.tsnd, e.due t = false) : timedSndScan t s = s := by
  refine forUpTo_of_fixed fun i => ?_
  unfold timedSndSlot
  split
  · rfl
  · rename_i e hslot
    rw [h e (List.mem_of_getElem? hslot)]
    rfl

/-! ### What the slots stand for -/

/-- Keeping some elements of a list and joining what each gives, element by element. -/
theorem flatMap_filter_eq {α β : Type} (p : α → Bool) (f : α → List β) (l : List α) :
    (l.filter p).flatMap f = l.flatMap fun x => if p x then f x else [] := by
  induction l with
  | nil => rfl
  | cons x l ih => cases h : p x <;> simp [h, ih]

theorem slotPulses_eq (t : U32) (s : State) (e : TimedSol) : slotPulses t s e =
    if e.active && e.fireAt.toNat ≤ t.toNat && e.sol.toNat < s.cfg.numSolenoids && (e.ovr || !s.solDisabled)
    then List.replicate e.count.toNat e.sol else [] := by
  unfold slotPulses gatedPulses TimedSol.due
  cases e.active && e.fireAt.toNat ≤ t.toNat with
  | false => simp
  | true => simp [or_comm]

theorem slotSounds_eq (t : U32) (s : State) (e : TimedSnd) : slotSounds t s e =
    if e.active && e.fireAt.toNat ≤ t.toNat && s.sndLo.toNat ≤ e.val.toNat && e.val.toNat ≤ s.sndHi.toNat
    then [e.val] else [] := by
  unfold slotSounds legalSound sndLegal TimedSnd.due
  cases e.active && e.fireAt.toNat ≤ t.toNat with
  | false => simp
  | true => simp

theorem duePulses_eq (t : U32) (s : State) : duePulses t s = s.tsol.flatMap (slotPulses t s) := by
  rw [duePulses, flatMap_filter_eq]
  exact List.flatMap_congr fun e _ => (slotPulses_eq t s e).symm

theorem dueSounds_eq (t : U32) (s : State) : dueSounds t s = s.tsnd.flatMap (slotSounds t s) := by
  rw [dueSounds, map_filter_eq_flatMap]
  exact List.flatMap_congr fun e _ => (slotSounds_eq t s e).symm

/-- A slot after a scan at `t` is active when it was and its time is after `t`; nothing else of it changes. -/
theorem freedSol_eq (t : U32) (e : TimedSol) :
    freedSol t e = { e with active := e.active && t.toNat < e.fireAt.toNat } := by
  obtain ⟨active, fireAt, sol, count, ovr⟩ := e
  by_cases h : t.toNat < fireAt.toNat
  · simp [freedSol, TimedSol.due, h, Nat.not_le.2 h]
  · cases active <;> simp [freedSol, TimedSol.due, h, Nat.not_lt.1 h]

theorem freedSnd_eq (t : U32) (e : TimedSnd) :
    freedSnd t e = { e with active := e.active && t.toNat < e.fireAt.toNat } := by
  obtain ⟨active, fireAt, val⟩ := e
  by_cases h : t.toNat < fireAt.toNat
  · simp [freedSnd, TimedSnd.due, h, Nat.not_le.2 h]
  · cases active <;> simp [freedSnd, TimedSnd.due, h, Nat.not_lt.1 h]

/-- After a scan at `t` no slot is due at a time not after `t`. -/
theorem freedSol_not_due {t t' : U32} (h : t'.toNat ≤ t.toNat) (e : TimedSol) : (freedSol t e).due t' = false := by
  simp only [freedSol_eq, TimedSol.due, Bool.and_eq_false_iff, decide_eq_false_iff_not]
  omega

theorem freedSnd_not_due {t t' : U32} (h : t'.toNat ≤ t.toNat) (e : TimedSnd) : (freedSnd t e).due t' = false := by
  simp only [freedSnd_eq, TimedSnd.due, Bool.and_eq_false_iff, decide_eq_false_iff_not]
  omega

/-! ### Flashing (R505) -/

/-- One lamp of `applyFlash`: its State bit becomes its phase if it flashes, and every other bit stays. -/
theorem applyFlashLamp_lampState (t : U32) {n : Nat} {s : State} (hn : n < 8 * s.lampState.length) :
    (applyFlashLamp t n s).lampState.length = s.lampState.length ∧
    ∀ l, bankBit (applyFlashLamp t n s).lampState l =
      if l = n ∧ s.flashPeriod.getD n 0#8 ≠ 0#8 then !flashOn s.cfg (s.flashPeriod.getD n 0#8) t
      else bankBit s.lampState l := by
  unfold applyFlashLamp
  simp only
  split
  · rename_i hstill
    exact ⟨rfl, fun l => by rw [if_neg fun h => h.2 hstill]⟩
  · rename_i hflash
    exact ⟨setBankBit_length _ _ _, fun l => by simp only [bankBit_setBankBit l _ hn, hflash, ne_eq, not_false_eq_true,
      and_true]⟩

/-- The first `n` lamps of `applyFlash`. -/
theorem applyFlashLamps_lampState (t : U32) {s : State} {n : Nat} (hn : n ≤ 8 * s.lampState.length) :
    (forUpTo n (applyFlashLamp t) s).lampState.length = s.lampState.length ∧
    ∀ l, bankBit (forUpTo n (applyFlashLamp t) s).lampState l =
      if l < n ∧ s.flashPeriod.getD l 0#8 ≠ 0#8 then !flashOn s.cfg (s.flashPeriod.getD l 0#8) t
      else bankBit s.lampState l := by
  induction n with
  | zero => simp
  | succ n ih =>
    obtain ⟨hlen, hbits⟩ := ih (by omega)
    have hperiod : (forUpTo n (applyFlashLamp t) s).flashPeriod = s.flashPeriod :=
      forUpTo_field (·.flashPeriod) s fun k u => by rw [applyFlashLamp_frame]
    have hcfg : (forUpTo n (applyFlashLamp t) s).cfg = s.cfg :=
      forUpTo_field (·.cfg) s fun k u => by rw [applyFlashLamp_frame]
    obtain ⟨hlen', hbits'⟩ := applyFlashLamp_lampState t (n := n) (s := forUpTo n (applyFlashLamp t) s) (by omega)
    rw [forUpTo_succ]
    refine ⟨hlen'.trans hlen, fun l => ?_⟩
    rw [hbits', hbits, hperiod, hcfg]
    by_cases hl : l = n
    · subst hl
      simp
    · simp only [hl, false_and, if_false, show l < n + 1 ↔ l < n by omega]

end Sys2Proof.Proofs
end

section
/-! PROOFS. UPDATE (R704): the slots it frees, what it queues, the lamps it flashes, and that a timed entry fires once. -/

namespace Sys2Proof.Proofs

open Sys2Proof.Machine Sys2Proof.Laws

/-! ### One UPDATE -/

/-- The state after an UPDATE at `t` of an initialised block. -/
def updated (t : U32) (s : State) : State := respond [] (applyFlash t (timedSndScan t (timedSolScan t s)))

theorem exec_update_next (t : U32) (s r : State) : exec (.update t) s = .next r ↔ s.init = true ∧ updated t s = r :=
  whenInitialised_next _ _ _

theorem updated_frame (t : U32) (s : State) : updated t s =
    { s with
      tsol := (updated t s).tsol, solq := (updated t s).solq, tsnd := (updated t s).tsnd
      sndq := (updated t s).sndq, lampState := (updated t s).lampState, responses := s.responses ++ [[]] } := by
  unfold updated
  rw [applyFlash_frame, timedSndScan_frame, timedSolScan_frame]
  rfl

/-- The solenoid side of an UPDATE is its solenoid scan. -/
theorem updated_sol (t : U32) (s : State) :
    (updated t s).tsol = (timedSolScan t s).tsol ∧ (updated t s).solq = (timedSolScan t s).solq := by
  unfold updated
  rw [applyFlash_frame, timedSndScan_frame]
  exact ⟨rfl, rfl⟩

/-- The sound side of an UPDATE is a sound scan that finds what the UPDATE found. -/
theorem updated_snd (t : U32) (s : State) :
    (updated t s).tsnd = mapFirst (freedSnd t) s.cfg.tsndCap s.tsnd ∧
    Appended s.cfg.sndqCap ((s.tsnd.take s.cfg.tsndCap).flatMap (slotSounds t s)) s.sndq (updated t s).sndq := by
  have hscan := timedSndScan_slots t (timedSolScan t s)
  have hsounds : slotSounds t (timedSolScan t s) = slotSounds t s := by rw [timedSolScan_frame]; rfl
  have htsnd : (timedSolScan t s).tsnd = s.tsnd := by rw [timedSolScan_frame]
  have hsndq : (timedSolScan t s).sndq = s.sndq := by rw [timedSolScan_frame]
  have hcfg : (timedSolScan t s).cfg = s.cfg := by rw [timedSolScan_frame]
  rw [hsounds, htsnd, hsndq, hcfg] at hscan
  unfold updated
  rw [applyFlash_frame]
  exact hscan

/-- An UPDATE of slot arrays of their lengths frees exactly the due slots and queues what they stand for. -/
theorem updated_tsol {s : State} (t : U32) (h : s.tsol.length = s.cfg.tsolCap) :
    (updated t s).tsol = s.tsol.map (freedSol t) ∧
    Appended s.cfg.solqCap (duePulses t s) s.solq (updated t s).solq := by
  obtain ⟨htsol, hsolq⟩ := updated_sol t s
  have hscan := timedSolScan_slots t s
  rw [← h, List.take_length, mapFirst_length] at hscan
  rw [htsol, hsolq, duePulses_eq]
  exact hscan

theorem updated_tsnd {s : State} (t : U32) (h : s.tsnd.length = s.cfg.tsndCap) :
    (updated t s).tsnd = s.tsnd.map (freedSnd t) ∧
    Appended s.cfg.sndqCap (dueSounds t s) s.sndq (updated t s).sndq := by
  have hscan := updated_snd t s
  rw [← h, List.take_length, mapFirst_length] at hscan
  rw [dueSounds_eq]
  exact hscan

/-- The lamp State bits after an UPDATE. -/
theorem updated_lampState {s : State} (t : U32) (h : s.lampState.length = s.cfg.numLampBanks) :
    (updated t s).lampState.length = s.cfg.numLampBanks ∧
    ∀ l < s.cfg.nlamp, bankBit (updated t s).lampState l =
      if s.flashPeriod.getD l 0#8 = 0#8 then bankBit s.lampState l
      else !flashOn s.cfg (s.flashPeriod.getD l 0#8) t := by
  have hcfg : (timedSndScan t (timedSolScan t s)).cfg = s.cfg := by rw [timedSndScan_frame, timedSolScan_frame]
  have hperiod : (timedSndScan t (timedSolScan t s)).flashPeriod = s.flashPeriod := by
    rw [timedSndScan_frame, timedSolScan_frame]
  have hstate : (timedSndScan t (timedSolScan t s)).lampState = s.lampState := by
    rw [timedSndScan_frame, timedSolScan_frame]
  obtain ⟨hlen, hbits⟩ := applyFlashLamps_lampState t (s := timedSndScan t (timedSolScan t s))
    (n := s.cfg.nlamp) (by rw [hstate, h, Config.nlamp])
  rw [hstate] at hlen
  rw [updated, respond_lampState, applyFlash, hcfg]
  refine ⟨hlen.trans h, fun l hl => ?_⟩
  rw [hbits, hperiod, hcfg, hstate]
  simp only [hl, true_and, ne_eq, ite_not]

/-- Settles O27: the frame of an UPDATE, its two slot arrays, and the lamps' State bits. -/
theorem updateFreesSlotsAndFlashes : Obligations.UpdateFreesSlotsAndFlashes := by
  intro s t hinit htsol htsnd hlamps
  obtain ⟨hsol, -⟩ := updated_tsol t htsol
  obtain ⟨hsnd, -⟩ := updated_tsnd t htsnd
  obtain ⟨hlen, hbits⟩ := updated_lampState t hlamps
  refine ⟨updated t s, (exec_update_next t s _).2 ⟨hinit, rfl⟩, updated_frame t s, ?tsol, ?tsnd, hlen, hbits⟩
  case tsol =>
    rw [hsol]
    exact List.map_congr_left fun e _ => by
      simp only [freedSol, TimedSol.due, Bool.and_eq_true, decide_eq_true_eq]
  case tsnd =>
    rw [hsnd]
    exact List.map_congr_left fun e _ => by
      simp only [freedSnd, TimedSnd.due, Bool.and_eq_true, decide_eq_true_eq]

/-- Settles O28: what comes to the two queues in an UPDATE. -/
theorem updateQueuesDueEntries : Obligations.UpdateQueuesDueEntries := by
  intro s t hinit htsol htsnd hsolq hsndq
  obtain ⟨-, hpulses⟩ := updated_tsol t htsol
  obtain ⟨-, hsounds⟩ := updated_tsnd t htsnd
  obtain ⟨-, hsol⟩ := hpulses hsolq
  obtain ⟨-, hsnd⟩ := hsounds hsndq
  exact ⟨updated t s, (exec_update_next t s _).2 ⟨hinit, rfl⟩, hsol, hsnd⟩

/-! ### Two UPDATEs -/

/-- An UPDATE that finds no slot due leaves slots and queues. -/
theorem updated_of_none_due {t : U32} {s : State} (hsol : ∀ e ∈ s.tsol, e.due t = false)
    (hsnd : ∀ e ∈ s.tsnd, e.due t = false) :
    (updated t s).tsol = s.tsol ∧ (updated t s).tsnd = s.tsnd ∧ (updated t s).solq = s.solq ∧
    (updated t s).sndq = s.sndq := by
  rw [updated, timedSolScan_of_none_due hsol, timedSndScan_of_none_due hsnd, applyFlash_frame]
  exact ⟨rfl, rfl, rfl, rfl⟩

/-- What is due at `t'` after the slots due at `t` were freed: the entries that came due in between. -/
theorem duePulses_of_freed {s r : State} {t : U32} (t' : U32) (hslots : r.tsol = s.tsol.map (freedSol t))
    (hcfg : r.cfg = s.cfg) (hgate : r.solDisabled = s.solDisabled) : duePulses t' r =
    (s.tsol.filter fun e => e.active && t.toNat < e.fireAt.toNat && e.fireAt.toNat ≤ t'.toNat &&
      e.sol.toNat < s.cfg.numSolenoids && (e.ovr || !s.solDisabled)).flatMap
        fun e => List.replicate e.count.toNat e.sol := by
  rw [duePulses, hslots, hcfg, hgate, List.filter_map, List.flatMap_map]
  simp only [freedSol_eq, Function.comp_def]

theorem dueSounds_of_freed {s r : State} {t : U32} (t' : U32) (hslots : r.tsnd = s.tsnd.map (freedSnd t))
    (hlo : r.sndLo = s.sndLo) (hhi : r.sndHi = s.sndHi) : dueSounds t' r =
    (s.tsnd.filter fun e => e.active && t.toNat < e.fireAt.toNat && e.fireAt.toNat ≤ t'.toNat &&
      s.sndLo.toNat ≤ e.val.toNat && e.val.toNat ≤ s.sndHi.toNat).map TimedSnd.val := by
  rw [dueSounds, hslots, hlo, hhi, List.filter_map, List.map_map]
  simp only [freedSnd_eq, Function.comp_def]

/-! ### Free slots -/

/-- No slot that is free in `l` is active in `l'`. -/
def StaysFree {α : Type} (active : α → Bool) (l l' : List α) : Prop :=
  ∀ (i : Nat) (e e' : α), l[i]? = some e → active e = false → l'[i]? = some e' → active e' = false

theorem StaysFree.refl {α : Type} (active : α → Bool) (l : List α) : StaysFree active l l := by
  intro i e e' he hfree he'
  rw [he] at he'
  cases he'
  exact hfree

/-- An array of free slots. -/
theorem StaysFree.replicate {α : Type} {active : α → Bool} {x : α} (hx : active x = false) (l : List α) (n : Nat) :
    StaysFree active l (List.replicate n x) := by
  intro i e e' _ _ he'
  rw [List.eq_of_mem_replicate (List.mem_of_getElem? he')]
  exact hx

/-- A scan of some slots that activates none. -/
theorem StaysFree.scan {α : Type} {active : α → Bool} {f : α → α} (hf : ∀ e, active e = false → active (f e) = false)
    (l : List α) (n : Nat) : StaysFree active l (mapFirst f n l) := by
  intro i e e' he hfree he'
  rw [getElem?_mapFirst, he, Option.map_some, Option.some.injEq] at he'
  subst he'
  split
  · exact hf e hfree
  · exact hfree

theorem freedSol_free (t : U32) (e : TimedSol) (h : e.active = false) : (freedSol t e).active = false := by
  rw [freedSol_eq, h, Bool.false_and]

theorem freedSnd_free (t : U32) (e : TimedSnd) (h : e.active = false) : (freedSnd t e).active = false := by
  rw [freedSnd_eq, h, Bool.false_and]

/-! ### What the commands write of pulses and slots -/

/-- The pulsed stack after a command other than RESET. -/
def solqAfter : Instr → State → Machine.Ring
  | .update t, s => (updated t s).solq
  | .pushPulsed a b c, s => (solPushPulsed a b (operandBool c) s).solq
  | .pushPriority a b, s => (solPushPriority a b s).solq
  | _, s => s.solq

/-- The timed solenoid slots after a command that is no registration of one. -/
def tsolAfter : Instr → State → List TimedSol
  | .reset, s => (resetFields s).tsol
  | .update t, s => (updated t s).tsol
  | _, s => s.tsol

/-- The timed sound slots after a command that is no registration of one. -/
def tsndAfter : Instr → State → List TimedSnd
  | .reset, s => (resetFields s).tsnd
  | .update t, s => (updated t s).tsnd
  | _, s => s.tsnd

/-- What a command from `s` to `t` does to pulses and slots: each is as said, but for the registrations of slots. -/
structure PulsesAndSlots (i : Instr) (s t : State) : Prop where
  solq : i ≠ .reset → t.solq = solqAfter i s
  tsol : (∀ a b u c, i ≠ .pushTimed a b u c) → t.tsol = tsolAfter i s
  tsnd : (∀ a u, i ≠ .pushTimedSound a u) → t.tsnd = tsndAfter i s

theorem exec_pulsesAndSlots {i : Instr} {s t : State} (h : exec i s = .next t) : PulsesAndSlots i s t := by
  cases i with
  | reset =>
    cases h
    exact ⟨fun hne => absurd rfl hne, fun _ => rfl, fun _ => rfl⟩
  | update u => exact of_whenInitialised h ⟨fun _ => rfl, fun _ => rfl, fun _ => rfl⟩
  | pushTimed a b u c =>
    refine of_whenInitialised h ⟨fun _ => ?_, fun hne => absurd rfl (hne a b u c), fun _ => ?_⟩
    all_goals split <;> [rfl; split <;> rfl]
  | pushTimedSound a u =>
    refine of_whenInitialised h ⟨fun _ => ?_, fun _ => ?_, fun hne => absurd rfl (hne a u)⟩
    all_goals split <;> [rfl; split <;> rfl]
  | selfCheck =>
    refine of_whenInitialised h ?_
    split
    · exact ⟨fun _ => rfl, fun _ => rfl, fun _ => rfl⟩
    · dsimp only
      rw [selfCheckFrom_frame]
      exact ⟨fun _ => rfl, fun _ => rfl, fun _ => rfl⟩
  | pushPulsed a b c =>
    refine of_whenInitialised h ⟨fun _ => rfl, fun _ => ?_, fun _ => ?_⟩
    all_goals rw [solPushPulsed_frame]; rfl
  | pushPriority a b =>
    refine of_whenInitialised h ⟨fun _ => rfl, fun _ => ?_, fun _ => ?_⟩
    all_goals rw [solPushPriority_frame]; rfl
  | pushSound a =>
    refine of_whenInitialised h ?_
    rw [sndPush_frame]
    exact ⟨fun _ => rfl, fun _ => rfl, fun _ => rfl⟩
  | flashAll u =>
    refine of_whenInitialised h ?_
    rw [applyFlash_frame]
    exact ⟨fun _ => rfl, fun _ => rfl, fun _ => rfl⟩
  | pullEvent | setLamp | setDimDivisors | setDigits | setBlankMask =>
    refine of_whenInitialised h ?_
    split <;> exact ⟨fun _ => rfl, fun _ => rfl, fun _ => rfl⟩
  | setContinuous a b =>
    refine of_whenInitialised h ?_
    split <;> [skip; split] <;> exact ⟨fun _ => rfl, fun _ => rfl, fun _ => rfl⟩
  | irqSuspend | irqResume | readStatus | readUpdown | readLevel | solDisable | solEnable | readContMask
  | readLampState | readLampDim | readLampFlash | lampsOffAll | setCredits | setBip | setSoundRange =>
    exact of_whenInitialised h ⟨fun _ => rfl, fun _ => rfl, fun _ => rfl⟩

theorem tsolAfter_staysFree (i : Instr) (s : State) : StaysFree TimedSol.active s.tsol (tsolAfter i s) := by
  cases i with
  | reset => exact .replicate rfl _ _
  | update t =>
    obtain ⟨hscan, -⟩ := timedSolScan_slots t s
    obtain ⟨htsol, -⟩ := updated_sol t s
    rw [tsolAfter, htsol, hscan]
    exact .scan (freedSol_free t) _ _
  | _ => exact .refl _ _

theorem tsndAfter_staysFree (i : Instr) (s : State) : StaysFree TimedSnd.active s.tsnd (tsndAfter i s) := by
  cases i with
  | reset => exact .replicate rfl _ _
  | update t =>
    obtain ⟨htsnd, -⟩ := updated_snd t s
    rw [tsndAfter, htsnd]
    exact .scan (freedSnd_free t) _ _
  | _ => exact .refl _ _

/-- A timer event touches no timed slot. -/
theorem timerEvent_slots (s : State) : (timerEvent s).tsol = s.tsol ∧ (timerEvent s).tsnd = s.tsnd := by
  unfold timerEvent
  split
  · exact ⟨rfl, rfl⟩
  · split
    · exact ⟨rfl, rfl⟩
    · rw [firing_frame]; exact ⟨rfl, rfl⟩

theorem pendingTurn_slots (s : State) : (pendingTurn s).tsol = s.tsol ∧ (pendingTurn s).tsnd = s.tsnd := by
  unfold pendingTurn
  split
  · rw [firing_frame]; exact ⟨rfl, rfl⟩
  · exact ⟨rfl, rfl⟩

/-- No step but a registration makes a free timed slot active (R455, R602). -/
theorem step_staysFree {s r : State} (hstep : step s = .next r) :
    ((∀ f rest a b u c, s.inputs = .command f :: rest → decode f ≠ .ok (.pushTimed a b u c)) →
      StaysFree TimedSol.active s.tsol r.tsol) ∧
    ((∀ f rest a u, s.inputs = .command f :: rest → decode f ≠ .ok (.pushTimedSound a u)) →
      StaysFree TimedSnd.active s.tsnd r.tsnd) := by
  obtain ⟨-, ⟨-, rfl⟩ | ⟨f, rest, hin, hrun⟩ | ⟨rest, -, rfl⟩ | ⟨rest, -, rfl⟩⟩ := step_cases hstep
  · exact ⟨fun _ => .refl _ _, fun _ => .refl _ _⟩
  · obtain ⟨i, hdec, hexec⟩ | ⟨e, -, -, rfl⟩ := runFrame_cases hrun
    · have hframe := exec_pulsesAndSlots hexec
      refine ⟨fun hreg => ?_, fun hreg => ?_⟩
      · rw [hframe.tsol fun a b u c hi => hreg f rest a b u c hin (hi ▸ hdec)]
        exact tsolAfter_staysFree i { s with inputs := rest }
      · rw [hframe.tsnd fun a u hi => hreg f rest a u hin (hi ▸ hdec)]
        exact tsndAfter_staysFree i { s with inputs := rest }
    · exact ⟨fun _ => .refl _ _, fun _ => .refl _ _⟩
  · obtain ⟨htsol, htsnd⟩ := timerEvent_slots { s with inputs := rest }
    rw [htsol, htsnd]
    exact ⟨fun _ => .refl _ _, fun _ => .refl _ _⟩
  · obtain ⟨htsol, htsnd⟩ := pendingTurn_slots { s with inputs := rest }
    rw [htsol, htsnd]
    exact ⟨fun _ => .refl _ _, fun _ => .refl _ _⟩

/-- Settles O29: a second UPDATE finds only what was not due at the first, and only a registration claims a slot. -/
theorem timedEntriesFireOnce : Obligations.TimedEntriesFireOnce := by
  refine ⟨fun s r r' t t' htsol htsnd hr hr' => ?_, fun s r hstep => step_staysFree hstep⟩
  obtain ⟨-, rfl⟩ := (exec_update_next t s r).1 hr
  obtain ⟨-, rfl⟩ := (exec_update_next t' _ r').1 hr'
  obtain ⟨hsol, hpulses⟩ := updated_tsol t htsol
  obtain ⟨hsnd, hsounds⟩ := updated_tsnd t htsnd
  have hcfg : (updated t s).cfg = s.cfg := by rw [updated_frame]
  have hgate : (updated t s).solDisabled = s.solDisabled := by rw [updated_frame]
  have hlo : (updated t s).sndLo = s.sndLo := by rw [updated_frame]
  have hhi : (updated t s).sndHi = s.sndHi := by rw [updated_frame]
  refine ⟨fun hle => updated_of_none_due ?_ ?_, fun hwf => ?pulses, fun hwf => ?sounds⟩
  · rw [hsol]
    exact List.forall_mem_map.2 fun e _ => freedSol_not_due hle e
  · rw [hsnd]
    exact List.forall_mem_map.2 fun e _ => freedSnd_not_due hle e
  case pulses =>
    obtain ⟨-, hpulses'⟩ := updated_tsol (s := updated t s) t' (by rw [hsol, List.length_map, htsol, hcfg])
    rw [hcfg, duePulses_of_freed t' hsol hcfg hgate] at hpulses'
    obtain ⟨hwf', -⟩ := hpulses hwf
    obtain ⟨-, hentries⟩ := hpulses' hwf'
    exact hentries
  case sounds =>
    obtain ⟨-, hsounds'⟩ := updated_tsnd (s := updated t s) t' (by rw [hsnd, List.length_map, htsnd, hcfg])
    rw [hcfg, dueSounds_of_freed t' hsnd hlo hhi] at hsounds'
    obtain ⟨hwf', -⟩ := hsounds hwf
    obtain ⟨-, hentries⟩ := hsounds' hwf'
    exact hentries

end Sys2Proof.Proofs
end

section
/-! PROOFS. The solenoid commands (R453 to R455, R458 to R461), and that no command takes a queued pulse (R452). -/

namespace Sys2Proof.Proofs

open Sys2Proof.Machine Sys2Proof.Laws

/-! ### The pulsed stack (R452, R453, R454) -/

/-- A command other than RESET and PUSH_PRIORITY leaves the pulsed stack or queues behind it. -/
theorem solqAfter_queues_behind {i : Instr} {s : State} (hi : ∀ a b, i ≠ .pushPriority a b)
    (hwf : s.solq.wf s.cfg.solqCap = true) : ∃ after, (solqAfter i s).entries = s.solq.entries ++ after := by
  cases i with
  | pushPriority a b => exact absurd rfl (hi a b)
  | update t =>
    obtain ⟨-, hscan⟩ := timedSolScan_slots t s
    obtain ⟨-, hsolq⟩ := updated_sol t s
    rw [solqAfter, hsolq]
    exact hscan.keeps_front hwf
  | pushPulsed a b c => exact (solPushPulsed_appended a b (operandBool c) s).keeps_front hwf
  | _ => exact ⟨[], (List.append_nil _).symm⟩

/-- A priority push queues before what it finds (R454). -/
theorem solPushPriority_queues_before {s : State} (id ticks : Byte) (hwf : s.solq.wf s.cfg.solqCap = true) :
    ∃ before, (solPushPriority id ticks s).solq.entries = before ++ s.solq.entries := by
  obtain ⟨-, hentries⟩ := solPushPriority_entries id ticks hwf
  rw [hentries]
  split
  · exact ⟨_, rfl⟩
  · exact ⟨[], rfl⟩

/-- Settles O24: a priority push queues before what was queued, every other command behind it. -/
theorem queuedPulsesStay : Obligations.QueuedPulsesStay := by
  intro i s t hi hwf h
  rw [(exec_pulsesAndSlots h).solq hi]
  by_cases hprio : ∃ a b, i = .pushPriority a b
  · obtain ⟨a, b, rfl⟩ := hprio
    obtain ⟨before, he⟩ := solPushPriority_queues_before a b hwf
    exact ⟨before, [], by rw [List.append_nil]; exact he⟩
  · obtain ⟨after, he⟩ := solqAfter_queues_behind (fun a b hab => hprio ⟨a, b, hab⟩) hwf
    exact ⟨[], after, by rw [List.nil_append]; exact he⟩

/-- R302: a Boolean operand is false exactly when its byte is 0. -/
theorem operandBool_eq_false_iff (b : Byte) : operandBool b = false ↔ b = 0#8 := by
  simp [operandBool]

theorem operandBool_iff (b : Byte) : operandBool b = true ↔ b ≠ 0#8 := by
  simp [operandBool]

/-- Settles O38: what `solPushPulsed` appends, stopped and let through. -/
theorem pushPulsedEffect : Obligations.PushPulsedEffect := by
  refine ⟨fun a b c => decodeOfEncode (.pushPulsed a b c), fun s a b c hinit hwf => ?_⟩
  obtain ⟨hwf', hentries⟩ := solPushPulsed_appended a b (operandBool c) s hwf
  refine ⟨(solPushPulsed a b (operandBool c) s).solq, ?exec, hwf', fun hstop => ?stopped, fun hid hgate => ?passed⟩
  case exec =>
    refine (whenInitialised_init hinit).trans ?_
    rw [solPushPulsed_frame]
    rfl
  case stopped => rw [solPushPulsed_stopped b (by rwa [operandBool_eq_false_iff])]
  case passed => rw [hentries, gatedPulses, if_pos ⟨hid, by rwa [operandBool_iff]⟩]

/-- A priority push that R454 stops changes nothing. -/
theorem solPushPriority_stopped {s : State} {id : Byte} (ticks : Byte)
    (h : s.cfg.numSolenoids ≤ id.toNat ∨ s.solDisabled = true) : solPushPriority id ticks s = s := by
  unfold solPushPriority solenoidExists
  rcases h with hid | hgate
  · rw [if_pos (by simpa using hid)]
  · rw [hgate]
    exact ite_self s

/-- Settles O39: the entries after a priority push, stopped and let through. -/
theorem pushPriorityEffect : Obligations.PushPriorityEffect := by
  refine ⟨fun a b => decodeOfEncode (.pushPriority a b), fun s a b hinit hwf => ?_⟩
  obtain ⟨hwf', hentries⟩ := solPushPriority_entries a b hwf
  refine ⟨(solPushPriority a b s).solq, ?exec, hwf', fun hstop => ?stopped, fun hid hgate => ?passed⟩
  case exec =>
    refine (whenInitialised_init hinit).trans ?_
    rw [solPushPriority_frame]
    rfl
  case stopped => rw [solPushPriority_stopped b hstop]
  case passed => rw [hentries, if_pos ⟨hid, hgate⟩]

/-! ### Registration of a timed entry (R455) -/

/-- The lowest free slot is the one behind the slots that are all taken. -/
theorem findIdx?_free {taken free : List TimedSol} {e : TimedSol} (htaken : ∀ x ∈ taken, x.active = true)
    (he : e.active = false) : (taken ++ e :: free).findIdx? (fun x => !x.active) = some taken.length := by
  rw [List.findIdx?_append, List.findIdx?_eq_none_iff.2 fun x hx => by simp [htaken x hx], List.findIdx?_cons]
  simp [he]

theorem execPushTimed_refused {s : State} {a : Byte} (b : Byte) (t : U32) (c : Byte) (hinit : s.init = true)
    (h : s.cfg.numSolenoids ≤ a.toNat ∨ ∀ e ∈ s.tsol, e.active = true) :
    execPushTimed a b t c s = .next (respond [0#8] s) := by
  refine (whenInitialised_init hinit).trans (congrArg _ ?_)
  by_cases hid : s.cfg.numSolenoids ≤ a.toNat
  · rw [if_pos (by simpa [solenoidExists] using hid)]
  · have hfull : s.tsol.findIdx? (fun e => !e.active) = none :=
      List.findIdx?_eq_none_iff.2 fun e he => by simp [h.resolve_left hid e he]
    rw [hfull]
    exact ite_self _

theorem execPushTimed_claimed {s : State} {a : Byte} (b : Byte) (t : U32) (c : Byte) (hinit : s.init = true)
    (hid : a.toNat < s.cfg.numSolenoids) {i : Nat} (hi : s.tsol.findIdx? (fun e => !e.active) = some i) :
    execPushTimed a b t c s = .next (respond [1#8] { s with
      tsol := s.tsol.set i { active := true, fireAt := t, sol := a, count := b, ovr := operandBool c } }) := by
  refine (whenInitialised_init hinit).trans (congrArg _ ?_)
  rw [if_neg (by simpa [solenoidExists] using hid), hi]

/-- Settles O40: refused without an existing id or a free slot; else the slot found is the lowest free one. -/
theorem pushTimedEffect : Obligations.PushTimedEffect := by
  refine ⟨fun a b t0 t1 t2 t3 c => rfl,
    fun s a b t c hinit => ⟨execPushTimed_refused b t c hinit, fun hid taken e free hslots htaken he => ?_⟩⟩
  refine (execPushTimed_claimed b t c hinit hid (by rw [hslots, findIdx?_free htaken he])).trans ?_
  rw [hslots, List.set_append_right _ _ le_rfl, Nat.sub_self, List.set_cons_zero]
  rfl

/-! ### Continuous mask and gate (R458 to R461) -/

theorem continuousAllowed_iff (c : Config) (id : Byte) : continuousAllowed c id = true ↔
    id.toNat < c.numSolenoids ∧ c.contAllowed.getLsbD id.toNat = true := by
  simp [continuousAllowed, solenoidExists]

/-- The continuous mask after SET_CONTINUOUS (R458). -/
def contMaskAfter (a b : Byte) (s : State) : U32 :=
  if continuousAllowed s.cfg a = true then
    if operandBool b = true then s.contMask ||| bit32 a.toNat else s.contMask &&& ~~~bit32 a.toNat
  else s.contMask

theorem execSetContinuous_next {s : State} (a b : Byte) (hinit : s.init = true) :
    execSetContinuous a b s = .next { s with contMask := contMaskAfter a b s, responses := s.responses ++ [[]] } := by
  refine (whenInitialised_init hinit).trans (congrArg _ ?_)
  unfold contMaskAfter
  cases continuousAllowed s.cfg a with
  | false => rfl
  | true => cases operandBool b <;> rfl

/-- An allowed id has its own bit written, and every other bit stays (R458). -/
theorem getLsbD_contMaskAfter (a b : Byte) (s : State) {k : Nat} (hk : k < 32) :
    (contMaskAfter a b s).getLsbD k =
      if k = a.toNat ∧ continuousAllowed s.cfg a = true then operandBool b else s.contMask.getLsbD k := by
  unfold contMaskAfter
  cases continuousAllowed s.cfg a with
  | false => simp
  | true =>
    cases operandBool b with
    | false =>
      rw [if_pos rfl, if_neg Bool.false_ne_true, BitVec.getLsbD_and, BitVec.getLsbD_not, getLsbD_bit32 _ hk]
      by_cases hka : k = a.toNat <;> simp [hk, hka]
    | true =>
      rw [if_pos rfl, if_pos rfl, BitVec.getLsbD_or, getLsbD_bit32 _ hk]
      by_cases hka : k = a.toNat <;> simp [hka]

/-- Settles O41: the mask bit by bit; at and above 32 there is none. -/
theorem setContinuousEffect : Obligations.SetContinuousEffect := by
  refine ⟨fun a b => decodeOfEncode (.setContinuous a b),
    fun s a b hinit => ⟨contMaskAfter a b s, execSetContinuous_next a b hinit, fun k => ?_⟩⟩
  by_cases hk : k < 32
  · have hown : (k = a.toNat ∧ continuousAllowed s.cfg a = true) ↔
        (k = a.toNat ∧ a.toNat < s.cfg.numSolenoids ∧ a.toNat < 32 ∧ s.cfg.contAllowed.getLsbD a.toNat = true) := by
      rw [continuousAllowed_iff]
      constructor
      · rintro ⟨rfl, hexists, hallowed⟩
        exact ⟨rfl, hexists, hk, hallowed⟩
      · rintro ⟨rfl, hexists, -, hallowed⟩
        exact ⟨rfl, hexists, hallowed⟩
    exact (getLsbD_contMaskAfter a b s hk).trans (if_congr hown rfl rfl)
  · have hother : ¬ (k = a.toNat ∧ a.toNat < s.cfg.numSolenoids ∧ a.toNat < 32 ∧
        s.cfg.contAllowed.getLsbD a.toNat = true) := by omega
    rw [if_neg hother, BitVec.getLsbD_of_ge _ _ (Nat.not_lt.1 hk), BitVec.getLsbD_of_ge _ _ (Nat.not_lt.1 hk)]

/-- STATUS bit 2 is the gate (R104). -/
theorem getLsbD_statusByte_gate (s : State) : (statusByte s).getLsbD 2 = s.solDisabled := by
  simp only [statusByte, BitVec.getLsbD_append, BitVec.getLsbD_ofBool]
  simp

/-- Settles O42: both commands write the gate, which STATUS bit 2 shows. -/
theorem solGateEffect : Obligations.SolGateEffect :=
  ⟨decodeOfEncode .solDisable, decodeOfEncode .solEnable, fun _ hinit =>
    ⟨⟨_, whenInitialised_init hinit, rfl, getLsbD_statusByte_gate _⟩,
      ⟨_, whenInitialised_init hinit, rfl, getLsbD_statusByte_gate _⟩⟩⟩

/-- Settles O43: the bytes answered are those of the mask, which they make up again. -/
theorem readContMaskEffect : Obligations.ReadContMaskEffect :=
  ⟨decodeOfEncode .readContMask, fun s hinit =>
    ⟨_, _, _, _, whenInitialised_init hinit, le32_bytes s.contMask⟩⟩

end Sys2Proof.Proofs
end

section
/-! PROOFS. The counters, indices and queues of a firing, and what a firing leaves alone (R501, R556, R652). -/

namespace Sys2Proof.Proofs

open Sys2Proof.Machine Sys2Proof.Laws

/-- The display strobe moves on to the next slot of the sequence (R556). -/
theorem displayStrobe_dispPos {s : State} (h : s.dispPos < s.cfg.displaySequence.length) :
    (displayStrobe s).dispPos = (s.dispPos + 1) % s.cfg.displaySequence.length := by
  rw [displayStrobe, List.getElem?_eq_getElem h]
  rfl

/-- The lamp strobe goes round the banks, and counts a sweep at the last one (R501). -/
theorem lampStrobe_round {s : State} (h : s.lampBank < s.cfg.numLampBanks) :
    (lampStrobe s).lampBank = (s.lampBank + 1) % s.cfg.numLampBanks ∧
    (lampStrobe s).lampCycle =
      if s.lampBank + 1 = s.cfg.numLampBanks then s.lampCycle + 1#32 else s.lampCycle := by
  unfold lampStrobe
  simp only
  split
  · rename_i hbank
    have hlast : s.lampBank + 1 = s.cfg.numLampBanks := by
      rw [busWrite_cfg, busWrite_cfg] at hbank
      omega
    rw [if_pos hlast, hlast, Nat.mod_self]
    exact ⟨rfl, rfl⟩
  · rename_i hbank
    have hnot : s.lampBank + 1 ≠ s.cfg.numLampBanks := by
      rw [busWrite_cfg, busWrite_cfg] at hbank
      omega
    rw [if_neg hnot, Nat.mod_eq_of_lt (by omega)]
    exact ⟨rfl, rfl⟩

/-- The display position after a firing is the one its strobe leaves. -/
theorem firing_dispPos (s : State) : (firing s).dispPos = (displayStrobe s).dispPos := by
  rw [firing_eq, upDownDebounce_frame]
  cases h : s.phase with
  | A => rw [firingWork_A h, scanPass_frame]
  | B => rw [firingWork_B h, actuatePass_frame]

/-- A scan pass counts itself, and its lamp round is the strobe's. -/
theorem scanPass_counts (s : State) :
    (scanPass s).scanCount = s.scanCount + 1#32 ∧ (scanPass s).lampBank = (lampStrobe s).lampBank ∧
    (scanPass s).lampCycle = (lampStrobe s).lampCycle := by
  refine ⟨by rw [scanPass_frame], ?_⟩
  unfold scanPass
  rw [switchScan_frame, selfTestRead_frame]
  exact ⟨rfl, rfl⟩

/-- A firing of phase A: the scan is counted, and the lamp round is the strobe's. -/
theorem firing_A {s : State} (h : s.phase = .A) :
    (firing s).scanCount = s.scanCount + 1#32 ∧
    (firing s).lampBank = (lampStrobe (displayStrobe s)).lampBank ∧
    (firing s).lampCycle = (lampStrobe (displayStrobe s)).lampCycle := by
  obtain ⟨hcount, hround⟩ := scanPass_counts (displayStrobe s)
  have hkeep : (displayStrobe s).scanCount = s.scanCount := by rw [displayStrobe_frame]
  rw [hkeep] at hcount
  rw [firing_eq, upDownDebounce_frame, firingWork_A h]
  dsimp only
  exact ⟨hcount, hround⟩

/-- A firing of phase B pops the pulsed stack and leaves switches, lamps and the scan count. -/
theorem firing_B {s : State} (h : s.phase = .B) :
    (firing s).solq = s.solq.popped ∧ (firing s).scanCount = s.scanCount ∧
    (firing s).swNow = s.swNow ∧ (firing s).swM1 = s.swM1 ∧ (firing s).swM2 = s.swM2 ∧
    (firing s).swq = s.swq ∧ (firing s).selfTestLevel = s.selfTestLevel ∧ (firing s).lampBank = s.lampBank ∧
    (firing s).lampCycle = s.lampCycle := by
  rw [firing_eq, upDownDebounce_frame, firingWork_B h, actuatePass_frame, displayStrobe_frame]
  exact ⟨rfl, rfl, rfl, rfl, rfl, rfl, rfl, rfl, rfl⟩

theorem firing_scanCount (s : State) :
    (firing s).scanCount = if s.phase = .A then s.scanCount + 1#32 else s.scanCount := by
  cases h : s.phase with
  | A =>
    obtain ⟨hcount, -⟩ := firing_A h
    exact hcount
  | B =>
    obtain ⟨-, hcount, -⟩ := firing_B h
    exact hcount

/-- The lamp round of a firing of phase A (R501). -/
theorem firing_lampRound {s : State} (hphase : s.phase = .A) (h : s.lampBank < s.cfg.numLampBanks) :
    (firing s).lampBank = (s.lampBank + 1) % s.cfg.numLampBanks ∧
    (firing s).lampCycle = if s.lampBank + 1 = s.cfg.numLampBanks then s.lampCycle + 1#32 else s.lampCycle := by
  obtain ⟨-, hbank, hcycle⟩ := firing_A hphase
  have hkeep : (displayStrobe s).lampBank = s.lampBank ∧ (displayStrobe s).lampCycle = s.lampCycle := by
    rw [displayStrobe_frame]
    exact ⟨rfl, rfl⟩
  obtain ⟨hbank', hcycle'⟩ := hkeep
  have hround := lampStrobe_round (s := displayStrobe s) (by rwa [hbank', displayStrobe_cfg])
  rw [hbank', hcycle', displayStrobe_cfg] at hround
  rw [hbank, hcycle]
  exact hround

/-- The fields that no firing writes (R652). -/
theorem firing_keeps (s : State) :
    (firing s).tsol = s.tsol ∧ (firing s).tsnd = s.tsnd ∧ (firing s).flashPeriod = s.flashPeriod ∧
    (firing s).sndLo = s.sndLo ∧ (firing s).sndHi = s.sndHi ∧ (firing s).dimDiv1 = s.dimDiv1 ∧
    (firing s).dimDiv2 = s.dimDiv2 ∧ (firing s).errSticky = s.errSticky ∧ (firing s).lastErr = s.lastErr ∧
    (firing s).irqSuspended = s.irqSuspended ∧ (firing s).firePending = s.firePending ∧ (firing s).init = s.init ∧
    (firing s).solDisabled = s.solDisabled ∧ (firing s).contMask = s.contMask ∧
    (firing s).lampState = s.lampState ∧ (firing s).lampDim1 = s.lampDim1 ∧ (firing s).lampDim2 = s.lampDim2 ∧
    (firing s).displays = s.displays ∧ (firing s).cred = s.cred ∧ (firing s).bip = s.bip ∧
    (firing s).cfg = s.cfg ∧ (firing s).inputs = s.inputs ∧ (firing s).responses = s.responses := by
  rw [firing_frame]
  exact ⟨rfl, rfl, rfl, rfl, rfl, rfl, rfl, rfl, rfl, rfl, rfl, rfl, rfl, rfl, rfl, rfl, rfl, rfl, rfl, rfl, rfl, rfl,
    rfl⟩

/-- Settles O17: counters and indices by the strobes, queues by the pops of phase B, all else by the frame. -/
theorem firingCountsAndFrame : Obligations.FiringCountsAndFrame := by
  intro s
  have hcounts : (firing s).phase = s.phase.other ∧ (firing s).tickCount = s.tickCount + 1#32 := by
    rw [firing_frame]
    exact ⟨rfl, rfl⟩
  obtain ⟨hphase, htick⟩ := hcounts
  refine ⟨?phase, htick, firing_scanCount s, fun h => ?switches, fun h => ?sounds, fun h => ?display,
    firing_lampRound, fun h hwf => ?pulsePopped, fun h hwf => ?soundPopped, firing_keeps s⟩
  case phase =>
    rw [hphase]
    cases s.phase <;> rfl
  case switches =>
    obtain ⟨-, -, hkeeps⟩ := firing_B h
    exact hkeeps
  case sounds => rw [firing_sndq, if_pos h]
  case display => rw [firing_dispPos, displayStrobe_dispPos h]
  case pulsePopped =>
    obtain ⟨hsolq, -⟩ := firing_B h
    obtain ⟨hwf', hentries, -⟩ := popped_spec hwf
    rw [hsolq]
    exact ⟨hwf', hentries⟩
  case soundPopped =>
    obtain ⟨hwf', hentries, -⟩ := popped_spec hwf
    rw [firing_sndq, if_neg (by simp [h])]
    exact ⟨hwf', hentries⟩

end Sys2Proof.Proofs
end

section
/-! PROOFS. The lamp strober (R501, R502) and the lamp commands (R504, R510 to R516). -/

namespace Sys2Proof.Proofs

open Sys2Proof.Machine Sys2Proof.Laws

/-! ### The strobe (R501, R502) -/

/-- Lamp `k` of bank `b` is bit `k` of the bank's byte (R500). -/
theorem bankBit_of_bank (bank : List Byte) (b : Nat) {k : Nat} (hk : k < 8) :
    bankBit bank (8 * b + k) = (bank.getD b 0#8).getLsbD k := by
  have hbyte : (8 * b + k) / 8 = b := by omega
  have hbit : (8 * b + k) % 8 = k := by omega
  rw [bankBit, hbyte, hbit]

theorem getLsbD_dimOverlay (c : U32) (divisor overlay : Byte) (k : Nat) :
    (dimOverlay c divisor overlay).getLsbD k = (c.toNat % divisor.toNat != 0 && overlay.getLsbD k) := by
  unfold dimOverlay
  split
  · rename_i hmultiple
    simp [hmultiple]
  · rename_i hnot
    simp [hnot]

/-- The strobed byte lamp by lamp: an overlay can only set a bit, which turns its lamp off (R501). -/
theorem getLsbD_lampData (s : State) (b : Nat) {k : Nat} (hk : k < 8) :
    (lampData s b).getLsbD k =
      (bankBit s.lampState (8 * b + k) ||
        ((dimCount s).toNat % s.dimDiv1.toNat != 0 && bankBit s.lampDim1 (8 * b + k)) ||
        ((dimCount s).toNat % s.dimDiv2.toNat != 0 && bankBit s.lampDim2 (8 * b + k))) := by
  simp only [lampData, BitVec.getLsbD_or, getLsbD_dimOverlay, bankBit_of_bank _ b hk]

/-- Settles O45: the byte by its overlays, the writes by the strobe's bus, the indices by the lamp round. -/
theorem lampStrobeEffect : Obligations.LampStrobeEffect := by
  intro s _ hbank
  obtain ⟨hnext, hcycle⟩ := lampStrobe_round hbank
  refine ⟨lampData s s.lampBank, (dimCount s).toNat, rfl, ?counter, fun k hk => getLsbD_lampData s s.lampBank hk,
    ?trace, ?frame⟩
  case counter =>
    unfold dimCount
    cases s.cfg.dimCounter <;> rfl
  case trace =>
    rw [lampStrobe_bus, write_trace, write_trace, List.append_assoc]
    rfl
  case frame =>
    rw [← hnext, ← hcycle]
    exact lampStrobe_frame s

/-! ### Flash units (R504) -/

/-- The clamped unit count fits the byte it is stored in, since P_FLASH_MAX is one. -/
theorem flashUnits_toNat (c : Config) {ms : U16} (h : ms ≠ 0#16) :
    (flashUnits c ms).toNat = clampNat (ms.toNat / c.flashUnitMs.toNat) c.flashMin.toNat c.flashMax.toNat := by
  have hfits : clampNat (ms.toNat / c.flashUnitMs.toNat) c.flashMin.toNat c.flashMax.toNat < 2 ^ 8 :=
    (min_le_right _ _).trans_lt c.flashMax.isLt
  rw [flashUnits, if_neg h, BitVec.toNat_ofNat, Nat.mod_eq_of_lt hfits]

/-- Settles O46: 0 by its own branch, any other period by the clamp. -/
theorem flashUnitsRule : Obligations.FlashUnitsRule :=
  fun c _ => ⟨fun hzero => if_pos hzero, fun hne => flashUnits_toNat c hne⟩

/-! ### Writing one lamp (R510) -/

theorem lampExists_iff (c : Config) (id : Byte) : lampExists c id = true ↔ id.toNat < c.nlamp := by
  simp [lampExists]

theorem lampExists_eq_false_iff (c : Config) (id : Byte) : lampExists c id = false ↔ c.nlamp ≤ id.toNat := by
  simp [lampExists]

/-- The state after SET_LAMP wrote an existing lamp, before its response. -/
def lampSet (a b c : Byte) (m : U16) (s : State) : State :=
  { s with
    lampState := setBankBit s.lampState a.toNat (!operandBool b)
    lampDim1 := setBankBit s.lampDim1 a.toNat (c == 1#8)
    lampDim2 := setBankBit s.lampDim2 a.toNat (c == 2#8)
    flashPeriod := s.flashPeriod.set a.toNat (flashUnits s.cfg m) }

theorem execSetLamp_inert {s : State} {a c : Byte} (b : Byte) (m : U16) (hinit : s.init = true)
    (h : s.cfg.nlamp ≤ a.toNat ∨ 2 < c.toNat) : execSetLamp a b c m s = .next (respond [] s) := by
  refine (whenInitialised_init hinit).trans ?_
  rw [if_pos (by simpa [lampExists_eq_false_iff] using h)]

theorem execSetLamp_written {s : State} {a c : Byte} (b : Byte) (m : U16) (hinit : s.init = true)
    (hid : a.toNat < s.cfg.nlamp) (hlevel : c.toNat ≤ 2) :
    execSetLamp a b c m s = .next (respond [] (lampSet a b c m s)) := by
  refine (whenInitialised_init hinit).trans ?_
  rw [if_neg (by simp [(lampExists_iff s.cfg a).2 hid, hlevel])]
  rfl

/-- Settles O47: the two cases of the command, and the written bits by the rule for one bit of a bank. -/
theorem setLampEffect : Obligations.SetLampEffect := by
  refine ⟨fun _ _ => rfl, fun a b c m0 m1 => rfl, fun s a b c m hinit hstate hdim1 hdim2 hperiod => ?_⟩
  by_cases hinert : s.cfg.nlamp ≤ a.toNat ∨ 2 < c.toNat
  · exact ⟨respond [] s, execSetLamp_inert b m hinit hinert, rfl, fun _ => rfl, fun hid hlevel => by omega⟩
  · obtain ⟨hid, hlevel⟩ : a.toNat < s.cfg.nlamp ∧ c.toNat ≤ 2 := by omega
    have hbit : ∀ {bank : List Byte} (v : Bool), bank.length = s.cfg.numLampBanks → ∀ l,
        bankBit (setBankBit bank a.toNat v) l = if l = a.toNat then v else bankBit bank l :=
      fun v hlen l => bankBit_setBankBit l v (by rwa [hlen])
    refine ⟨respond [] (lampSet a b c m s), execSetLamp_written b m hinit hid hlevel, rfl,
      fun h => absurd h hinert, fun _ _ => ⟨rfl, fun l _ => ⟨?state, hbit _ hdim1 l, hbit _ hdim2 l⟩⟩⟩
    case state =>
      have hoff : (!operandBool b) = (b == 0#8) := Bool.not_not _
      exact hoff ▸ hbit _ hstate l

/-! ### Reading one lamp (R511 to R513) -/

/-- READ_LAMP_DIM's byte is its two dim bits, in bits 0 and 1 (R512). -/
theorem dimByte_spec (d1 d2 : Bool) :
    (boolByte d1 ||| boolByte d2 <<< 1).getLsbD 0 = d1 ∧ (boolByte d1 ||| boolByte d2 <<< 1).getLsbD 1 = d2 ∧
    (boolByte d1 ||| boolByte d2 <<< 1).toNat < 4 := by
  cases d1 <;> cases d2 <;> decide

theorem boolByte_not (b : Bool) : boolByte (!b) = if b then 0#8 else 1#8 := by
  cases b <;> rfl

/-- Settles O48: each read answers 0 for an id that does not exist, and else what is stored. -/
theorem lampReadsEffect : Obligations.LampReadsEffect := by
  refine ⟨fun a => ⟨decodeOfEncode (.readLampState a), decodeOfEncode (.readLampDim a),
    decodeOfEncode (.readLampFlash a)⟩, fun s a hinit => ?_⟩
  refine ⟨_, _, _, whenInitialised_init hinit, whenInitialised_init hinit, whenInitialised_init hinit,
    fun hmissing => ?_, fun hexists => ?_⟩
  · rw [(lampExists_eq_false_iff s.cfg a).2 hmissing]
    exact ⟨rfl, rfl, rfl⟩
  · rw [(lampExists_iff s.cfg a).2 hexists]
    obtain ⟨hdim1, hdim2, hlt⟩ := dimByte_spec (bankBit s.lampDim1 a.toNat) (bankBit s.lampDim2 a.toNat)
    exact ⟨boolByte_not _, hdim1, hdim2, hlt, rfl⟩

/-! ### Writing every lamp (R514, R515) -/

/-- Settles O49: every array keeps its length, so each is as many copies of the value as it has entries. -/
theorem lampsOffAllEffect : Obligations.LampsOffAllEffect := by
  refine ⟨decodeOfEncode .lampsOffAll, fun s hinit hstate hdim1 hdim2 hperiod => ?_⟩
  refine (whenInitialised_init hinit).trans ?_
  simp only [List.map_const', hstate, hdim1, hdim2, hperiod]
  rfl

/-- No lamp dimmed and every lamp flashing with P_FLASH_ALL_PERIOD: what FLASH_ALL leaves before it applies the flash
(R515). -/
def allFlashing (s : State) : State :=
  { s with
    lampDim1 := List.replicate s.cfg.numLampBanks 0#8
    lampDim2 := List.replicate s.cfg.numLampBanks 0#8
    flashPeriod := List.replicate s.cfg.nlamp s.cfg.flashAllPeriod }

theorem execFlashAll_next {s : State} (t : U32) (hinit : s.init = true) (hdim1 : s.lampDim1.length = s.cfg.numLampBanks)
    (hdim2 : s.lampDim2.length = s.cfg.numLampBanks) (hperiod : s.flashPeriod.length = s.cfg.nlamp) :
    execFlashAll t s = .next (respond [] (applyFlash t (allFlashing s))) := by
  refine (whenInitialised_init hinit).trans ?_
  simp only [List.map_const', hdim1, hdim2, hperiod]
  rfl

/-- P_FLASH_ALL_PERIOD is no steady period (R8). -/
theorem flashAllPeriod_ne_zero {c : Config} (hc : c.legal = true) : c.flashAllPeriod ≠ 0#8 := by
  obtain ⟨⟨hmin, -⟩, ⟨hle, -⟩⟩ := (flashLegal_iff c).1 (flashLegal_of_legal hc)
  exact bne_iff_ne.1 ((bne_zero_iff _).2 (hmin.trans hle))

/-- The flash of FLASH_ALL reaches every lamp, since none is steady. -/
theorem applyFlash_allFlashing {s : State} (t : U32) (hc : s.cfg.legal = true)
    (hstate : s.lampState.length = s.cfg.numLampBanks) :
    (applyFlash t (allFlashing s)).lampState.length = s.cfg.numLampBanks ∧
    ∀ l < s.cfg.nlamp, bankBit (applyFlash t (allFlashing s)).lampState l =
      !flashOn s.cfg s.cfg.flashAllPeriod t := by
  obtain ⟨hlen, hbits⟩ := applyFlashLamps_lampState t (s := allFlashing s) (n := s.cfg.nlamp)
    (Nat.le_of_eq (congrArg (8 * ·) hstate.symm))
  refine ⟨hlen.trans hstate, fun l hl => ?_⟩
  have hperiod : (allFlashing s).flashPeriod.getD l 0#8 = s.cfg.flashAllPeriod := by
    simp [allFlashing, hl]
  refine (hbits l).trans ?_
  rw [hperiod, if_pos ⟨hl, flashAllPeriod_ne_zero hc⟩]
  rfl

/-- Settles O50: the arrays written whole, then the flash, which reaches every lamp and writes State bits only. -/
theorem flashAllEffect : Obligations.FlashAllEffect := by
  refine ⟨fun t0 t1 t2 t3 => rfl, fun s t hinit hlegal hstate hdim1 hdim2 hperiod => ?_⟩
  obtain ⟨hlen, hbits⟩ := applyFlash_allFlashing t hlegal hstate
  refine ⟨_, execFlashAll_next t hinit hdim1 hdim2 hperiod, ?frame, hlen, hbits⟩
  case frame =>
    rw [applyFlash_frame]
    rfl

/-! ### Dim divisors (R516) -/

/-- Settles O51: the no-op when an operand is 0, and the two divisors stored when neither is. -/
theorem setDimDivisorsEffect : Obligations.SetDimDivisorsEffect := by
  refine ⟨fun a b => decodeOfEncode (.setDimDivisors a b), fun s a b hinit => ⟨fun hzero => ?_, fun ha hb => ?_⟩⟩
  · refine (whenInitialised_init hinit).trans ?_
    rw [if_pos (by simpa using hzero)]
    rfl
  · refine (whenInitialised_init hinit).trans ?_
    rw [if_neg (by simp [ha, hb])]
    rfl

end Sys2Proof.Proofs
end

section
/-! PROOFS. The display commands (R551 to R554) and the display strobe (R556). -/

namespace Sys2Proof.Proofs

open Sys2Proof.Machine Sys2Proof.Laws

/-! ### The magnitude mask (R552) -/

/-- `v` has `n` decimal digits; 0 has one. -/
def IsDecimalLength (v n : Nat) : Prop :=
  1 ≤ n ∧ v < 10 ^ n ∧ (n = 1 ∨ 10 ^ (n - 1) ≤ v)

theorem isDecimalLength_one {v : Nat} (hv : v < 10) : IsDecimalLength v 1 :=
  ⟨le_rfl, hv, .inl rfl⟩

/-- A further digit behind the last one makes the value one digit longer. -/
theorem IsDecimalLength.succ {v n : Nat} (hv : ¬ v < 10) (h : IsDecimalLength (v / 10) n) :
    IsDecimalLength v (n + 1) := by
  obtain ⟨hpos, hlt, hge⟩ := h
  obtain ⟨k, rfl⟩ : ∃ k, n = k + 1 := ⟨n - 1, by omega⟩
  refine ⟨by omega, ?below, .inr ?above⟩
  case below =>
    rw [Nat.pow_succ]
    omega
  case above =>
    rcases hge with hk | hk
    · obtain rfl : k = 0 := by omega
      omega
    · rw [Nat.add_sub_cancel] at hk ⊢
      rw [Nat.pow_succ]
      omega

/-- Looking at as many positions as hold the value, `sigUpTo` counts its digits, which are at most that many. -/
theorem sigUpTo_isDecimalLength {n v : Nat} (hv : v < 10 ^ (n + 1)) :
    IsDecimalLength v (sigUpTo (n + 1) v) ∧ sigUpTo (n + 1) v ≤ n + 1 := by
  induction n generalizing v with
  | zero =>
    have hone : v < 10 := hv
    rw [sigUpTo, if_pos hone]
    exact ⟨isDecimalLength_one hone, le_rfl⟩
  | succ n ih =>
    rw [sigUpTo]
    split
    case isTrue hone => exact ⟨isDecimalLength_one hone, by omega⟩
    case isFalse hmore =>
      obtain ⟨hlength, hle⟩ := ih (v := v / 10) (Nat.div_lt_of_lt_mul (by rwa [← Nat.pow_succ']))
      rw [Nat.add_comm 1]
      exact ⟨hlength.succ hmore, Nat.succ_le_succ hle⟩

/-- Ten positions hold every u32. -/
theorem sig_isDecimalLength (v : U32) : IsDecimalLength v.toNat (sig v) ∧ sig v ≤ 10 :=
  sigUpTo_isDecimalLength (v.isLt.trans (by decide))

/-- The mask of the `n` low positions, bit by bit. -/
theorem getLsbD_lowPositions (n : Nat) {k : Nat} (hk : k < 8) : (lowPositions n).getLsbD k = decide (k < n) := by
  rw [lowPositions, BitVec.getLsbD_ofNat, Nat.testBit_two_pow_sub_one]
  simp [hk]

/-- Settles O53: the length is `sig` of the value, and the mask is that of the low positions. -/
theorem magMaskRule : Obligations.MagMaskRule := by
  intro c v m _
  obtain ⟨⟨hpos, hlt, hge⟩, hle⟩ := sig_isDecimalLength v
  exact ⟨sig v, hpos, hle, hlt, hge, fun k hk => getLsbD_lowPositions _ hk⟩

/-! ### Writing one primary display (R551, R553) -/

/-- The state with display `a` changed by `f`, where there is such a display: what SET_DIGITS and SET_BLANK_MASK leave
before their response. -/
def withDisplay (a : Byte) (f : Display → Display) (s : State) : State :=
  if h : a.toNat < 5 then { s with displays := s.displays.set a.toNat (f s.displays[a.toNat]) } else s

theorem withDisplay_frame (a : Byte) (f : Display → Display) (s : State) :
    withDisplay a f s = { s with displays := (withDisplay a f s).displays } := by
  unfold withDisplay
  split <;> rfl

theorem withDisplay_displays_of_ne {a : Byte} (f : Display → Display) (s : State) {d : Fin 5} (hd : d.val ≠ a.toNat) :
    (withDisplay a f s).displays[d] = s.displays[d] := by
  unfold withDisplay
  split
  case isTrue ha => exact Vector.getElem_set_ne ha d.isLt hd.symm
  case isFalse => rfl

theorem withDisplay_displays_of_eq {a : Byte} (f : Display → Display) (s : State) {d : Fin 5} (hd : d.val = a.toNat) :
    (withDisplay a f s).displays[d] = f s.displays[d] := by
  have ha : a.toNat < 5 := hd ▸ d.isLt
  obtain rfl : d = ⟨a.toNat, ha⟩ := Fin.ext hd
  rw [withDisplay, dif_pos ha]
  exact Vector.getElem_set_self _

/-- The display that SET_DIGITS makes of the one it writes (R551). -/
def digitsWritten (c : Config) (v : U32) (b minDigits : Byte) (x : Display) : Display where
  digits := (List.range c.digits).map (decimalDigit v.toNat)
  mask := if operandBool b then magMask c v minDigits else x.mask

theorem execSetDigits_next {s : State} (a : Byte) (v : U32) (b c : Byte) (hinit : s.init = true) :
    execSetDigits a v b c s = .next (respond [] (withDisplay a (digitsWritten s.cfg v b c) s)) :=
  whenInitialised_init hinit

theorem execSetBlankMask_next {s : State} (a b : Byte) (hinit : s.init = true) :
    execSetBlankMask a b s =
      .next (respond [] (withDisplay a (fun x => { x with mask := b &&& lowPositions s.cfg.digits }) s)) :=
  whenInitialised_init hinit

theorem decimalDigit_val (v k : Nat) : (decimalDigit v k).val = v / 10 ^ k % 10 := rfl

theorem digitsWritten_digits (c : Config) (v : U32) (b minDigits : Byte) (x : Display) {k : Nat} (hk : k < c.digits) :
    ((digitsWritten c v b minDigits x).digits.getD k 0).val = v.toNat / 10 ^ k % 10 := by
  simp [digitsWritten, hk, decimalDigit_val]

theorem digitsWritten_mask (c : Config) (v : U32) (b minDigits : Byte) (x : Display) :
    (digitsWritten c v b minDigits x).mask = if b = 0#8 then x.mask else magMask c v minDigits := by
  by_cases hb : b = 0#8
  · rw [if_pos hb]
    exact if_neg (by simp [operandBool, hb])
  · rw [if_neg hb]
    exact if_pos ((operandBool_iff b).2 hb)

/-- Settles O52: the one display written, by position, and the rest by the frame of the write. -/
theorem setDigitsEffect : Obligations.SetDigitsEffect := by
  refine ⟨fun a v0 v1 v2 v3 b c => rfl, fun s a v b c hinit =>
    ⟨_, execSetDigits_next a v b c hinit, ?frame, fun d => ⟨withDisplay_displays_of_ne _ s, fun hd => ?written⟩⟩⟩
  case frame =>
    rw [withDisplay_frame]
    rfl
  case written =>
    have hdisplay := withDisplay_displays_of_eq (digitsWritten s.cfg v b c) s hd
    simp only [respond_displays, hdisplay]
    exact ⟨by simp [digitsWritten], fun k => digitsWritten_digits s.cfg v b c _, digitsWritten_mask s.cfg v b c _⟩

/-- Bits at and above P_DIGITS are discarded (R553); none is there from bit 8 on. -/
theorem getLsbD_and_lowPositions (b : Byte) (n k : Nat) :
    (b &&& lowPositions n).getLsbD k = (b.getLsbD k && decide (k < n)) := by
  rw [BitVec.getLsbD_and]
  by_cases hk : k < 8
  · rw [getLsbD_lowPositions n hk]
  · rw [BitVec.getLsbD_of_ge b k (by omega), Bool.false_and, Bool.false_and]

/-- Settles O54: the one mask written, bit by bit, and the rest by the frame of the write. -/
theorem setBlankMaskEffect : Obligations.SetBlankMaskEffect := by
  refine ⟨fun a b => decodeOfEncode (.setBlankMask a b), fun s a b hinit _ =>
    ⟨_, execSetBlankMask_next a b hinit, ?frame, fun d => ⟨withDisplay_displays_of_ne _ s, fun hd => ?written⟩⟩⟩
  case frame =>
    rw [withDisplay_frame]
    rfl
  case written =>
    simp only [respond_displays, withDisplay_displays_of_eq _ s hd]
    exact ⟨trivial, getLsbD_and_lowPositions b s.cfg.digits⟩

/-! ### The sub-displays (R554) -/

/-- A value modulo 100 has no third digit, so what is left above the ones is the tens digit (R554). -/
theorem subDisplayOf_digits (a b c : Byte) :
    (subDisplayOf a b c).digit0.val = a.toNat % 100 % 10 ∧ (subDisplayOf a b c).digit1.val = a.toNat % 100 / 10 := by
  simp only [subDisplayOf, decimalDigit_val]
  omega

theorem subDisplayOf_mask (a b c : Byte) : (subDisplayOf a b c).mask =
    if b = 0#8 then 0b00#2 else if c ≠ 0#8 ∨ 10 ≤ a.toNat % 100 then 0b11#2 else 0b01#2 := by
  simp [subDisplayOf, operandBool]

/-- Settles O55: both commands store the sub-display of R554, each in its own field. -/
theorem subDisplayEffect : Obligations.SubDisplayEffect := by
  refine ⟨fun a b c => ⟨decodeOfEncode (.setCredits a b c), decodeOfEncode (.setBip a b c)⟩, fun s a b c hinit => ?_⟩
  obtain ⟨hones, htens⟩ := subDisplayOf_digits a b c
  refine ⟨subDisplayOf a b c, whenInitialised_init hinit, whenInitialised_init hinit, hones, htens,
    fun hoff => ?off, fun hon hboth => ?both, fun hon hblank hlow => ?ones⟩
  case off => rw [subDisplayOf_mask, if_pos hoff]
  case both => rw [subDisplayOf_mask, if_neg hon, if_pos hboth]
  case ones => rw [subDisplayOf_mask, if_neg hon, if_neg (by simp [hblank, hlow])]

/-! ### The strobe (R556) -/

/-- Settles O56: the two writes and the position by the strobe's rules, the data by the slot's owner. -/
theorem displayStrobeEffect : Obligations.DisplayStrobeEffect := by
  intro s x hslot
  refine ⟨slotData s x, rfl, ?trace, ?frame, fun d howner => ?primary, fun howner => ?cred, fun howner => ?bip⟩
  case trace =>
    rw [(displayStrobe_bus s).1, displayTransactions, hslot]
    rfl
  case frame =>
    obtain ⟨hpos, -⟩ := List.getElem?_eq_some_iff.1 hslot
    rw [← displayStrobe_dispPos hpos]
    exact displayStrobe_frame s
  case primary => simp only [slotData, slotEnabled, slotDigit, howner]
  case cred => simp only [slotData, slotEnabled, slotDigit, howner, SubDisplay.digit]
  case bip => simp only [slotData, slotEnabled, slotDigit, howner, SubDisplay.digit]

end Sys2Proof.Proofs
end

section
/-! PROOFS. The sound commands (R600 to R602, R604) and the sound side of the actuate pass (R605). -/

namespace Sys2Proof.Proofs

open Sys2Proof.Machine Sys2Proof.Laws

/-! ### The range check (R600) -/

/-- A value is legal when it is in the range, both ends included. -/
theorem sndLegal_iff (s : State) (v : Byte) :
    sndLegal s v = true ↔ s.sndLo.toNat ≤ v.toNat ∧ v.toNat ≤ s.sndHi.toNat := by
  simp [sndLegal]

theorem sndLegal_eq_false_iff (s : State) (v : Byte) :
    sndLegal s v = false ↔ v.toNat < s.sndLo.toNat ∨ s.sndHi.toNat < v.toNat := by
  rw [← Bool.not_eq_true, sndLegal_iff]
  omega

/-! ### A push (R601) -/

theorem execPushSound_illegal {s : State} {a : Byte} (hinit : s.init = true) (h : sndLegal s a = false) :
    execPushSound a s = .next (respond [0#8] s) := by
  refine (whenInitialised_init hinit).trans ?_
  rw [sndPush, h]
  rfl

/-- A legal value is answered 1, whether it is queued or lost on a full stack. -/
theorem execPushSound_legal {s : State} {a : Byte} (hinit : s.init = true) (h : sndLegal s a = true) :
    execPushSound a s = .next (respond [1#8] { s with sndq := s.sndq.pushed a }) := by
  refine (whenInitialised_init hinit).trans ?_
  rw [sndPush, h]
  rfl

/-- Settles O57: the two answers of the range check, and the ring's silent push for a legal value. -/
theorem pushSoundEffect : Obligations.PushSoundEffect := by
  refine ⟨fun a => decodeOfEncode (.pushSound a), fun s a hinit hwf => ⟨fun hout => ?illegal, fun hlo hhi => ?legal⟩⟩
  case illegal => exact execPushSound_illegal hinit ((sndLegal_eq_false_iff s a).2 hout)
  case legal =>
    obtain ⟨hpushed, -⟩ := pushed_spec a hwf
    exact ⟨s.sndq.pushed a, hpushed, pushed_take a hwf, execPushSound_legal hinit ((sndLegal_iff s a).2 ⟨hlo, hhi⟩)⟩

/-! ### Registration of a timed value (R602) -/

/-- Among slots of any kind, the first free one stands behind those that are all taken. -/
theorem findIdx?_first_free {α : Type} {active : α → Bool} {taken free : List α} {e : α}
    (htaken : ∀ x ∈ taken, active x = true) (he : active e = false) :
    (taken ++ e :: free).findIdx? (fun x => !active x) = some taken.length := by
  have hnone : taken.findIdx? (fun x => !active x) = none :=
    List.findIdx?_eq_none_iff.2 fun x hx => by rw [htaken x hx, Bool.not_true]
  rw [List.findIdx?_append, hnone, List.findIdx?_cons, he]
  simp

theorem execPushTimedSound_refused {s : State} {a : Byte} (t : U32) (hinit : s.init = true)
    (h : sndLegal s a = false ∨ ∀ e ∈ s.tsnd, e.active = true) :
    execPushTimedSound a t s = .next (respond [0#8] s) := by
  refine (whenInitialised_init hinit).trans (congrArg _ ?_)
  rcases h with hillegal | htaken
  · rw [hillegal]
    rfl
  · have hfull : s.tsnd.findIdx? (fun e => !e.active) = none :=
      List.findIdx?_eq_none_iff.2 fun e he => by rw [htaken e he, Bool.not_true]
    rw [hfull]
    exact ite_self _

theorem execPushTimedSound_claimed {s : State} {a : Byte} (t : U32) (hinit : s.init = true)
    (hlegal : sndLegal s a = true) {i : Nat} (hi : s.tsnd.findIdx? (fun e => !e.active) = some i) :
    execPushTimedSound a t s =
      .next (respond [1#8] { s with tsnd := s.tsnd.set i { active := true, fireAt := t, val := a } }) := by
  refine (whenInitialised_init hinit).trans (congrArg _ ?_)
  rw [hlegal, hi]
  rfl

/-- Settles O58: refused out of range or without a free slot; else the slot found is the lowest free one. -/
theorem pushTimedSoundEffect : Obligations.PushTimedSoundEffect := by
  refine ⟨fun a t0 t1 t2 t3 => rfl,
    fun s a t hinit => ⟨fun h => ?refused, fun hlo hhi taken e free hslots htaken he => ?claimed⟩⟩
  case refused =>
    rw [← or_assoc, ← sndLegal_eq_false_iff] at h
    exact execPushTimedSound_refused t hinit h
  case claimed =>
    have hfree : s.tsnd.findIdx? (fun e => !e.active) = some taken.length := by
      rw [hslots, findIdx?_first_free htaken he]
    refine (execPushTimedSound_claimed t hinit ((sndLegal_iff s a).2 ⟨hlo, hhi⟩) hfree).trans ?_
    rw [hslots, List.set_append_right _ _ le_rfl, Nat.sub_self, List.set_cons_zero]
    rfl

/-! ### The bounds (R604) -/

/-- Settles O59: the command writes the two bounds and tests neither. -/
theorem setSoundRangeEffect : Obligations.SetSoundRangeEffect :=
  ⟨fun a b => decodeOfEncode (.setSoundRange a b), fun _ _ _ hinit => whenInitialised_init hinit⟩

/-! ### The actuate pass (R605) -/

/-- The pass makes one write: of what it pops, or of the silent value. -/
theorem soundActuate_trace (s : State) : (soundActuate s).bus.trace = s.bus.trace ++
    [.write s.cfg.soundAddr.toNat ((s.sndq.pop.map Prod.fst).getD s.cfg.soundSilent)] :=
  write_trace s.bus _ _

/-- Settles O60: the ring rule for a pop, the one write, and the frame of the pass. -/
theorem soundActuation : Obligations.SoundActuation := by
  intro s hwf
  obtain ⟨hpop_wf, hpop_entries, hpop_fst⟩ := popped_spec hwf
  have hsndq : (soundActuate s).sndq = s.sndq.popped := by rw [soundActuate_frame]
  refine ⟨?frame, ?wf, ?entries, ?trace⟩
  case frame => rw [hsndq]; exact soundActuate_frame s
  case wf => rw [hsndq]; exact hpop_wf
  case entries => rw [hsndq]; exact hpop_entries
  case trace => rw [← hpop_fst]; exact soundActuate_trace s

end Sys2Proof.Proofs
end

section
/-! PROOFS. Taking the timer interrupt: the firing event (R650) and the pending step (R653). -/

namespace Sys2Proof.Proofs

open Sys2Proof.Machine Sys2Proof.Laws

/-! ### The two inputs of the dispatcher, as steps -/

theorem step_timer {s : State} {rest : List Input} (hlegal : s.cfg.legal = true) (hin : s.inputs = .timer :: rest) :
    step s = .next (timerEvent { s with inputs := rest }) := by
  rw [step, hin]
  exact whenConfigured_legal hlegal _

theorem step_pending {s : State} {rest : List Input} (hlegal : s.cfg.legal = true)
    (hin : s.inputs = .pending :: rest) : step s = .next (pendingTurn { s with inputs := rest }) := by
  rw [step, hin]
  exact whenConfigured_legal hlegal _

/-! ### A firing event (R650) -/

/-- A firing event is ignored before the first RESET. -/
theorem timerEvent_uninitialised {s : State} (hinit : s.init = false) : timerEvent s = s := by
  simp [timerEvent, hinit]

/-- A firing event runs a firing, whether or not one is pending. -/
theorem timerEvent_taken {s : State} (hinit : s.init = true) (hs : s.irqSuspended = false) :
    timerEvent s = firing s := by
  simp [timerEvent, hinit, hs]

/-- Settles O9: the event's three branches, each behind the step that takes it. -/
theorem timerEventEffect : Obligations.TimerEventEffect := by
  intro s rest hlegal hin
  rw [step_timer hlegal hin]
  refine ⟨fun hinit => ?ignored, fun hinit hs => ?held, fun hinit hs => ?taken⟩
  case ignored => exact congrArg _ (timerEvent_uninitialised hinit)
  case held => exact congrArg _ (timerEvent_suspended hinit hs)
  case taken => exact congrArg _ (timerEvent_taken hinit hs)

/-! ### The pending firing (R653) -/

/-- The pending step, once enabled, clears the pending firing and runs it. -/
theorem pendingTurn_of_enabled {s : State} (hinit : s.init = true) (hs : s.irqSuspended = false)
    (hpending : s.firePending = true) : pendingTurn s = firing { s with firePending := false } := by
  have henabled : pendingEnabled s = true := by simp [pendingEnabled, hinit, hs, hpending]
  rw [pendingTurn, if_pos henabled]

theorem firing_firePending (s : State) : (firing s).firePending = s.firePending := by rw [firing_frame]

theorem firing_tickCount (s : State) : (firing s).tickCount = s.tickCount + 1#32 := by rw [firing_frame]

/-- Settles O10: the enabled turn, the frame of a firing for the event taken meanwhile, and the reset value. -/
theorem pendingFiringIsDelivered : Obligations.PendingFiringIsDelivered := by
  intro s rest hlegal hinit hs hpending
  refine ⟨fun hin => ?delivered, fun hin => ?survives, ?discarded⟩
  case delivered =>
    rw [step_pending hlegal hin]
    exact congrArg _ (pendingTurn_of_enabled hinit hs hpending)
  case survives =>
    have htaken : timerEvent { s with inputs := rest } = firing { s with inputs := rest } := timerEvent_taken hinit hs
    exact ⟨firing { s with inputs := rest }, (step_timer hlegal hin).trans (congrArg _ htaken),
      (firing_firePending _).trans hpending, firing_tickCount _⟩
  case discarded => exact ⟨respond [] (resetFields s), rfl, rfl⟩

end Sys2Proof.Proofs
end

section
/-! PROOFS. The control commands (R700 to R703, R705, R706): SELF_CHECK's transactions and mask, the suspension, the
STATUS byte, the up/down latch. -/

namespace Sys2Proof.Proofs

open Sys2Proof.Machine Sys2Proof.Laws

/-! ### RESET (R700) -/

/-- The reset values depend on the parameters alone, and what is no field of S stays. -/
theorem resetFields_congr {s s' : State} (hcfg : s.cfg = s'.cfg) (hinputs : s.inputs = s'.inputs)
    (hbus : s.bus = s'.bus) (hresponses : s.responses = s'.responses) : resetFields s = resetFields s' := by
  rw [resetFields, resetFields, hcfg, hinputs, hbus, hresponses]

/-- Settles O16: RESET answers nothing on `resetFields`, which looks at no field of S. -/
theorem resetForgetsTheState : Obligations.ResetForgetsTheState := by
  intro s s' hcfg hinputs hbus hresponses
  exact congrArg (fun t => Host.Outcome.next (respond [] t)) (resetFields_congr hcfg hinputs hbus hresponses)

/-! ### The STATUS byte (R104) -/

theorem getLsbD_statusByte_suspended (s : State) : (statusByte s).getLsbD 0 = s.irqSuspended := by
  simp only [statusByte, BitVec.getLsbD_append, BitVec.getLsbD_ofBool]
  simp

theorem getLsbD_statusByte_pending (s : State) : (statusByte s).getLsbD 1 = s.firePending := by
  simp only [statusByte, BitVec.getLsbD_append, BitVec.getLsbD_ofBool]
  simp

theorem getLsbD_statusByte_err (s : State) : (statusByte s).getLsbD 3 = s.errSticky := by
  simp only [statusByte, BitVec.getLsbD_append, BitVec.getLsbD_ofBool]
  simp

/-- The high half of STATUS is LAST_ERR. -/
theorem getLsbD_statusByte_lastErr (s : State) (k : Nat) :
    (statusByte s).getLsbD (4 + k) = s.lastErr.getLsbD k := by
  have hindex : 4 + k - 1 - 1 - 1 - 1 = k := by omega
  simp only [statusByte, BitVec.getLsbD_append, hindex]
  rw [if_neg (by omega), if_neg (by omega), if_neg (by omega), if_neg (by omega)]

/-- Settles O30: the answer is `statusByte`, whose bits are those of R104. -/
theorem readStatusEffect : Obligations.ReadStatusEffect :=
  ⟨decodeOfEncode .readStatus, fun s hinit =>
    ⟨statusByte s, whenInitialised_init hinit, rfl, getLsbD_statusByte_suspended s, getLsbD_statusByte_pending s,
      getLsbD_statusByte_gate s, getLsbD_statusByte_err s, fun k _ => getLsbD_statusByte_lastErr s k⟩⟩

/-! ### The suspension (R702, R703) -/

/-- Settles O26: both commands write the suspension alone, so that a pending firing is enabled once it ends (R653). -/
theorem irqSuspendAndResumeEffect : Obligations.IrqSuspendAndResumeEffect := by
  refine ⟨decodeOfEncode .irqSuspend, decodeOfEncode .irqResume, fun s hinit => ⟨?suspend, ?resume⟩⟩
  case suspend => exact ⟨_, whenInitialised_init hinit, rfl, getLsbD_statusByte_suspended _⟩
  case resume =>
    refine ⟨_, whenInitialised_init hinit, rfl, getLsbD_statusByte_suspended _, fun hpending => ?_⟩
    simp [pendingEnabled, hinit, hpending]

/-! ### The up/down latch (R706) -/

/-- Settles O31: the answer is the latch, and only the latch is cleared. -/
theorem readUpdownEffect : Obligations.ReadUpdownEffect :=
  ⟨decodeOfEncode .readUpdown, fun _ hinit => whenInitialised_init hinit⟩

/-! ### The transactions of SELF_CHECK (R701) -/

/-- The transactions of the subsystems from number `k` on: each writes its pattern and reads it back, and the draw that
answers the read of number `i` is that of number `i`, counted on the bus `b` before the command. -/
def selfCheckTransactions (b : Bus) (es : List SelfCheckEntry) (k : Nat) : List Transaction :=
  (es.zipIdx k).flatMap fun x => [.write x.1.addr.toNat x.1.pat, .read x.1.addr.toNat (drawAt b x.2)]

theorem selfCheckTransactions_cons (b : Bus) (e : SelfCheckEntry) (rest : List SelfCheckEntry) (k : Nat) :
    selfCheckTransactions b (e :: rest) k =
      [.write e.addr.toNat e.pat, .read e.addr.toNat (drawAt b k)] ++ selfCheckTransactions b rest (k + 1) := rfl

/-- `k` reads lie between the bus `b` and the state `s`: the draws to come are those of `b` from number `k` on. -/
def ReadsBefore (b : Bus) (k : Nat) (s : State) : Prop := ∀ j, drawAt s.bus j = drawAt b (k + j)

theorem readsBefore_zero (s : State) : ReadsBefore s.bus 0 s := fun j => by rw [Nat.zero_add]

theorem ReadsBefore.draw {b : Bus} {k : Nat} {s : State} (h : ReadsBefore b k s) : s.bus.draw = drawAt b k := h 0

/-- A subsystem uses up one draw. -/
theorem ReadsBefore.pair {b : Bus} {k : Nat} {s : State} (h : ReadsBefore b k s) (e : SelfCheckEntry) :
    ReadsBefore b (k + 1) (selfCheckPair e s) := fun j => by
  rw [selfCheckPair, busRead_bus, busWrite_bus, drawAt_read, drawAt_write, h, Nat.add_assoc, Nat.add_comm 1]

theorem selfCheckPair_trace {b : Bus} {k : Nat} {s : State} (h : ReadsBefore b k s) (e : SelfCheckEntry) :
    (selfCheckPair e s).bus.trace =
      s.bus.trace ++ [.write e.addr.toNat e.pat, .read e.addr.toNat (drawAt b k)] := by
  rw [selfCheckPair, busRead_bus, busWrite_bus, read_trace, write_trace, write_draw, h.draw, List.append_assoc]
  rfl

theorem selfCheckFrom_trace (b : Bus) (es : List SelfCheckEntry) : ∀ (k : Nat) (m : Byte) {s : State},
    ReadsBefore b k s →
    (selfCheckFrom es k (m, s)).2.bus.trace = s.bus.trace ++ selfCheckTransactions b es k := by
  induction es with
  | nil => intro k m s _; exact (List.append_nil _).symm
  | cons e rest ih =>
    intro k m s h
    rw [selfCheckFrom, ih _ _ (h.pair e), selfCheckPair_trace h, selfCheckTransactions_cons,
      List.append_assoc]

/-- The five places of P_SELFCHECK with their numbers. -/
theorem selfCheck_zipIdx (v : Vector SelfCheckEntry 5) :
    v.toList.zipIdx 0 = (List.finRange 5).map fun k => (v[k], k.val) :=
  List.ext_getElem (by simp) fun i _ _ => by simp

/-- The transactions in the order of P_SELFCHECK's five places. -/
theorem selfCheckTransactions_toList (b : Bus) (v : Vector SelfCheckEntry 5) :
    selfCheckTransactions b v.toList 0 = (List.finRange 5).flatMap fun k =>
      [.write v[k].addr.toNat v[k].pat, .read v[k].addr.toNat (drawAt b k.val)] := by
  rw [selfCheckTransactions, selfCheck_zipIdx, List.flatMap_map]

/-! ### The bytes that SELF_CHECK leaves (R701, R903) -/

theorem lastWrite_selfCheckTransactions_cons (a : Nat) (b : Bus) (e : SelfCheckEntry) (rest : List SelfCheckEntry)
    (k : Nat) : lastWrite a (selfCheckTransactions b (e :: rest) k) =
      (lastWrite a (selfCheckTransactions b rest (k + 1))).or (if e.addr.toNat = a then some e.pat else none) := by
  rw [selfCheckTransactions_cons, lastWrite_append]
  rfl

/-- An address of no subsystem is not written. -/
theorem lastWrite_selfCheckTransactions_none {a : Nat} (b : Bus) {es : List SelfCheckEntry} : ∀ (k : Nat),
    (∀ e ∈ es, e.addr.toNat ≠ a) → lastWrite a (selfCheckTransactions b es k) = none := by
  induction es with
  | nil => intro k _; rfl
  | cons e rest ih =>
    intro k h
    obtain ⟨he, hrest⟩ := List.forall_mem_cons.1 h
    rw [lastWrite_selfCheckTransactions_cons, ih _ hrest, if_neg he, Option.or_none]

/-- The last subsystem that has an address leaves its pattern there. -/
theorem lastWrite_selfCheckTransactions_some (b : Bus) (before : List SelfCheckEntry) {e : SelfCheckEntry}
    {after : List SelfCheckEntry} (h : ∀ x ∈ after, x.addr.toNat ≠ e.addr.toNat) : ∀ (k : Nat),
    lastWrite e.addr.toNat (selfCheckTransactions b (before ++ e :: after) k) = some e.pat := by
  induction before with
  | nil =>
    intro k
    rw [List.nil_append, lastWrite_selfCheckTransactions_cons, lastWrite_selfCheckTransactions_none b _ h, if_pos rfl,
      Option.none_or]
  | cons d rest ih =>
    intro k
    rw [List.cons_append, lastWrite_selfCheckTransactions_cons, ih, Option.some_or]

/-- The locations hold what the transactions wrote there last, or what they held. -/
theorem selfCheckFrom_latched (es : List SelfCheckEntry) (m : Byte) (s : State) (a : Nat) :
    Memory.read (selfCheckFrom es 0 (m, s)).2.bus.latched a =
      (lastWrite a (selfCheckTransactions s.bus es 0)).or (Memory.read s.bus.latched a) := by
  obtain ⟨new, htrace, hheld, -⟩ := selfCheckFrom_busFollows es 0 m s
  have hnew : selfCheckTransactions s.bus es 0 = new :=
    List.append_cancel_left ((selfCheckFrom_trace s.bus es 0 m (readsBefore_zero s)).symm.trans htrace)
  rw [hnew, hheld]

/-- The place `k` of P_SELFCHECK with the places after it. -/
theorem selfCheck_split (v : Vector SelfCheckEntry 5) (k : Fin 5) : ∃ before after,
    v.toList = before ++ v[k] :: after ∧ ∀ x ∈ after, ∃ j : Fin 5, k < j ∧ v[j] = x := by
  have hk : k.val < v.toList.length := by simp
  refine ⟨v.toList.take k, v.toList.drop (k + 1), ?split, fun x hx => ?later⟩
  case split =>
    have hplace : v.toList[k.val] = v[k] := by simp
    rw [← hplace, ← List.drop_eq_getElem_cons hk, List.take_append_drop]
  case later =>
    obtain ⟨i, hi, rfl⟩ := List.mem_drop_iff_getElem.1 hx
    rw [Vector.length_toList] at hi
    exact ⟨⟨k + 1 + i, by omega⟩, Fin.lt_def.2 (by simp only; omega), by simp⟩

/-! ### The failure mask (R701) -/

/-- Bit `j` of a byte after bit `k` was set on a condition. -/
theorem getLsbD_setOnCondition (m : Byte) (c : Bool) (k : Nat) {j : Nat} (hj : j < 8) :
    (if c = true then m ||| (1#8 <<< k) else m).getLsbD j = (m.getLsbD j || (decide (j = k) && c)) := by
  cases c with
  | false => simp
  | true =>
    by_cases h : j = k
    · subst h; simp [hj]
    · simp [h]; omega

/-- A bit of the mask: what it was, or that the subsystem of its number fails, if there is one from number `k` on. -/
theorem getLsbD_selfCheckFrom (b : Bus) (es : List SelfCheckEntry) {j : Nat} (hj : j < 8) :
    ∀ (k : Nat) (m : Byte) {s : State}, ReadsBefore b k s →
    (selfCheckFrom es k (m, s)).1.getLsbD j =
      (m.getLsbD j || (es.zipIdx k).any fun x => decide (j = x.2) && drawAt b x.2 != x.1.pat) := by
  induction es with
  | nil => intro k m s _; simp [selfCheckFrom]
  | cons e rest ih =>
    intro k m s h
    have hfails : selfCheckFails e s = (drawAt b k != e.pat) := by
      rw [selfCheckFails, busWrite_bus, write_draw, h.draw]
    rw [selfCheckFrom, ih _ _ (h.pair e), getLsbD_setOnCondition _ _ _ hj, hfails, List.zipIdx_cons,
      List.any_cons, Bool.or_assoc]

/-- Bit `k` of the mask of the five subsystems. -/
theorem getLsbD_selfCheckMask (v : Vector SelfCheckEntry 5) (s : State) (k : Fin 5) :
    (selfCheckFrom v.toList 0 (0#8, s)).1.getLsbD k.val = (drawAt s.bus k.val != v[k].pat) := by
  rw [getLsbD_selfCheckFrom s.bus _ (by omega) 0 _ (readsBefore_zero s), selfCheck_zipIdx, List.any_map,
    BitVec.getLsbD_zero, Bool.false_or, Bool.eq_iff_iff, List.any_eq_true]
  constructor
  · rintro ⟨i, -, hi⟩
    obtain ⟨hki, hfails⟩ : k.val = i.val ∧ (drawAt s.bus i.val != v[i].pat) = true := by simpa using hi
    rwa [Fin.ext hki]
  · intro hfails
    exact ⟨k, List.mem_finRange k, by simpa using hfails⟩

/-- There is no subsystem from number 5 on. -/
theorem getLsbD_selfCheckMask_ge (v : Vector SelfCheckEntry 5) (s : State) {j : Nat} (hj : 5 ≤ j) :
    (selfCheckFrom v.toList 0 (0#8, s)).1.getLsbD j = false := by
  by_cases hj8 : j < 8
  · have hnone (i : Fin 5) : j ≠ i.val := by omega
    rw [getLsbD_selfCheckFrom s.bus _ hj8 0 _ (readsBefore_zero s), selfCheck_zipIdx]
    simp [hnone]
  · exact BitVec.getLsbD_of_ge _ _ (Nat.not_lt.1 hj8)

/-! ### SELF_CHECK -/

/-- The failure mask and the state after the five subsystems (R701). -/
def selfCheckRun (s : State) : Byte × State := selfCheckFrom s.cfg.selfCheck.toList 0 (0#8, s)

theorem exec_selfCheck_suspended {s : State} (hinit : s.init = true) (hs : s.irqSuspended = true) :
    exec .selfCheck s = .next (respond [(selfCheckRun s).1] (selfCheckRun s).2) := by
  refine (whenInitialised_init hinit).trans (congrArg _ ?_)
  rw [hs]
  rfl

/-- SELF_CHECK is refused while the source is not suspended. -/
theorem exec_selfCheck_refused {s : State} (hinit : s.init = true) (hs : s.irqSuspended = false) :
    exec .selfCheck s = .next (commandError .selfCheckRefused s) := by
  refine (whenInitialised_init hinit).trans (congrArg _ ?_)
  rw [hs]
  rfl

/-- Settles O25: the run over the five subsystems gives the mask and the transactions, and what the locations hold
follows from the transactions. -/
theorem selfCheckEffect : Obligations.SelfCheckEffect := by
  refine ⟨decodeOfEncode .selfCheck, fun s hinit => ⟨fun hs => ?checked, exec_selfCheck_refused hinit⟩⟩
  refine ⟨_, (selfCheckRun s).1, exec_selfCheck_suspended hinit hs, ?frame, ?trace,
    getLsbD_selfCheckMask _ s, fun _ => getLsbD_selfCheckMask_ge _ s, fun k hlast => ?written, fun a hother => ?kept⟩
  case frame =>
    have hframe : (selfCheckRun s).2 = { s with bus := (selfCheckRun s).2.bus } := selfCheckFrom_frame _ _ _ _
    rw [hframe]
    rfl
  case trace =>
    rw [← selfCheckTransactions_toList]
    exact selfCheckFrom_trace s.bus _ 0 _ (readsBefore_zero s)
  case written =>
    obtain ⟨before, after, hsplit, hafter⟩ := selfCheck_split s.cfg.selfCheck k
    have hlater : ∀ x ∈ after, x.addr.toNat ≠ s.cfg.selfCheck[k].addr.toNat := by
      intro x hx
      obtain ⟨j, hkj, rfl⟩ := hafter x hx
      exact hlast j hkj
    refine (selfCheckFrom_latched s.cfg.selfCheck.toList 0#8 s _).trans ?_
    rw [hsplit, lastWrite_selfCheckTransactions_some _ _ hlater, Option.some_or]
  case kept =>
    have hnone := (selfCheck_forall_iff s.cfg fun e => e.addr.toNat ≠ a).2 hother
    refine (selfCheckFrom_latched s.cfg.selfCheck.toList 0#8 s a).trans ?_
    rw [lastWrite_selfCheckTransactions_none _ _ hnone, Option.none_or]

end Sys2Proof.Proofs
end

section
/-! PROOFS. Before the first RESET (R802, R806): every frame but RESET's goes through the check of initialisation first. -/

namespace Sys2Proof.Proofs

open Sys2Proof.Machine Sys2Proof.Laws

theorem step_command {s : State} {f : Frame} {rest : List Input} (hlegal : s.cfg.legal = true)
    (hin : s.inputs = .command f :: rest) : step s = runFrame f { s with inputs := rest } := by
  rw [step, hin]
  exact whenConfigured_legal hlegal _

/-- Every command but RESET has its whole effect behind the check of initialisation (R802). -/
theorem exec_eq_whenInitialised {i : Instr} (hi : i ≠ .reset) (s : State) :
    ∃ effect, exec i s = whenInitialised s effect := by
  cases i with
  | reset => exact absurd rfl hi
  | _ => exact ⟨_, rfl⟩

/-- So has every frame but RESET's, for a decoding error is recorded behind the same check. -/
theorem runFrame_eq_whenInitialised {f : Frame} (hf : decode f ≠ .ok .reset) (s : State) :
    ∃ effect, runFrame f s = whenInitialised s effect := by
  unfold runFrame
  split
  next i hdec => exact exec_eq_whenInitialised (fun hi => hf (hi ▸ hdec)) s
  next e hdec => exact ⟨commandError e s, rfl⟩

theorem runFrame_uninitialised {f : Frame} {s : State} (hf : decode f ≠ .ok .reset) (hinit : s.init = false) :
    runFrame f s = .fault .notInitialised := by
  obtain ⟨effect, hrun⟩ := runFrame_eq_whenInitialised hf s
  exact hrun.trans ((whenInitialised_fault s effect _).2 ⟨hinit, rfl⟩)

/-- Settles O8: RESET alone is not behind the check of initialisation, and the firing event is O9's first branch. -/
theorem beforeTheFirstReset : Obligations.BeforeTheFirstReset := by
  intro s hlegal hinit
  refine ⟨fun f rest hin hdec => ?reset, fun f rest hin hf => ?fault,
    fun rest hin => (timerEventEffect s rest hlegal hin).1 hinit⟩
  case reset => exact ⟨_, frameRunsItsCommand s f rest .reset hlegal hin hdec, rfl, rfl⟩
  case fault => exact (step_command hlegal hin).trans (runFrame_uninitialised hf hinit)

end Sys2Proof.Proofs
end
